-- ==== Sys2Proof/Word.lean ====
section
/-! DEFINITION. The word types of the QDEC-PID block: the 200-bit record and its slots (30_encoding.md R60),
the 72-bit response word (R61), and `Num64`, the ordered binary64 values that unit P holds (41_pid.md R120, R122). -/

namespace Sys2Proof

/-- A record: `op` = bits 199:192, `a` = 191:128, `b` = 127:64, `c` = 63:0 (30_encoding.md R60). -/
abbrev Record := BitVec 200

/-- One 64-bit operand slot of a record (30_encoding.md R60). -/
abbrev Slot := BitVec 64

/-- The number of magnitude patterns of ordered binary64 values: bits 62:0 below the pattern whose exponent
field is all ones, which is where infinity and not-a-number begin (30_encoding.md R64, 41_pid.md R122). -/
abbrev Num64.limit : Nat := 0x7FF0000000000000

/-- A `NUM` value of the binary64 instance (41_pid.md R120): the sign of bit 63 and the pattern of bits 62:0.
The bound keeps infinities and not-a-number out, to which 41_pid.md R122 gives no meaning.
Both signs of zero are values, since the pattern has them. -/
structure Num64 where
  neg : Bool
  mag : Fin Num64.limit
deriving DecidableEq, Repr, Inhabited

end Sys2Proof
end

