-- ==== Sys2Proof/Syntax.lean ====
section
/-! DEFINITION. The operations of the block, one constructor for each row of spec/opcode_table.json
(30_encoding.md R66), and the pseudo-operations of R69. -/

namespace Sys2Proof

/-- The two digital inputs of the encoder (00_scope.md R9). -/
inductive Channel where
  | A
  | B
deriving DecidableEq, Repr

/-- An answer of `LevelRead`: a level, or `fail` (60_exceptions.md R165). -/
inductive Level where
  | low
  | high
  | fail
deriving DecidableEq, Repr, Inhabited

/-- The operations (30_encoding.md R66). A slot that R63 says is ignored has no field here. A `NUM` operand is
its whole slot (R64), and so is the unsigned operand of format `U1`, whose high bits R64 wants to be 0. -/
inductive Instr where
  /-- `QRD_COUNT`, `0x01` (40_qdec.md R90). -/
  | qrdCount
  /-- `QRD_ILLEGAL`, `0x02` (40_qdec.md R91). -/
  | qrdIllegal
  /-- `QRESET`, `0x03` (40_qdec.md R92). -/
  | qreset
  /-- `QSET_DEBOUNCE`, `0x04` (40_qdec.md R93): slot `a`. -/
  | qsetDebounce (us : Slot)
  /-- `QEDGE`, `0x10` (40_qdec.md R81): the event and the EdgeSource's answers during its processing. -/
  | qedge (ch : Channel) (ts : Slot) (lvA lvB : Level)
  /-- `PSTEP`, `0x20` (41_pid.md R121). -/
  | pstep (ref meas dt : Slot)
  /-- `PRESET`, `0x21` (41_pid.md R130). -/
  | preset (iseed eseed : Slot)
  /-- `PSET_KP`, `0x22` (41_pid.md R131). -/
  | psetKp (v : Slot)
  /-- `PSET_KI`, `0x23` (41_pid.md R132). -/
  | psetKi (v : Slot)
  /-- `PSET_KD`, `0x24` (41_pid.md R140). -/
  | psetKd (v : Slot)
  /-- `PSET_OUT_LIMITS`, `0x25` (41_pid.md R133). -/
  | psetOutLimits (a b : Slot)
  /-- `PSET_INT_LIMITS`, `0x26` (41_pid.md R134). -/
  | psetIntLimits (a b : Slot)
  /-- `PSET_AW_GAIN`, `0x27` (41_pid.md R135). -/
  | psetAwGain (v : Slot)
  /-- `PRD_INTEG`, `0x28` (41_pid.md R136). -/
  | prdInteg
  /-- `PRD_LAST_U`, `0x29` (41_pid.md R141). -/
  | prdLastU
  /-- `PRD_LAST_Y`, `0x2A` (41_pid.md R142). -/
  | prdLastY
  /-- `BCONSTRUCT`, `0xF0` (70_reset_and_hazards.md R190): whether acquiring failed, and the initial levels. -/
  | bconstruct (acquireFails : Bool) (lvA lvB : Level)
  /-- `BSTOP`, `0xF1` (60_exceptions.md R176). -/
  | bstop
  /-- `BRELEASE`, `0xF2` (60_exceptions.md R177). -/
  | brelease
deriving DecidableEq, Repr

/-- The three kinds of record (30_encoding.md R60). -/
inductive Kind where
  | command
  | event
  | lifecycle
deriving DecidableEq, Repr

/-- Who issues a record of this operation (30_encoding.md R66, column "kind"). -/
def Instr.kind : Instr → Kind
  | .qrdCount => .command
  | .qrdIllegal => .command
  | .qreset => .command
  | .qsetDebounce _ => .command
  | .qedge _ _ _ _ => .event
  | .pstep _ _ _ => .command
  | .preset _ _ => .command
  | .psetKp _ => .command
  | .psetKi _ => .command
  | .psetKd _ => .command
  | .psetOutLimits _ _ => .command
  | .psetIntLimits _ _ => .command
  | .psetAwGain _ => .command
  | .prdInteg => .command
  | .prdLastU => .command
  | .prdLastY => .command
  | .bconstruct _ _ _ => .lifecycle
  | .bstop => .lifecycle
  | .brelease => .lifecycle

/-- The operand list of one `QEDGE` whose channel is known (30_encoding.md R69): the timestamp, and the answers of
`LevelRead` during its processing. -/
structure EdgeOperands where
  ts  : Slot
  lvA : Level
  lvB : Level
deriving DecidableEq, Repr

/-- The pseudo-operations of 30_encoding.md R69, which have no opcode. -/
inductive Pseudo where
  /-- `PSET_GAINS kp, ki, kd`. -/
  | psetGains (kp ki kd : Slot)
  /-- `QWAKE <evA> | <evB>`: one wake with both channels ready; `first` is the channel served first. -/
  | qwake (first : Channel) (evA evB : EdgeOperands)
  /-- `QTIMEOUT`: a wake with an empty ready set. -/
  | qtimeout
deriving DecidableEq, Repr

end Sys2Proof
end

