-- ==== Sys2Proof/Config.lean ====
section
/-! DEFINITION. The parameters of 00_scope.md R7 with their defaults, and the free values: opaque constants for what
the spec leaves open. -/

namespace Sys2Proof

/-- The default of `W_CNT` (00_scope.md R7). -/
abbrev Config.wCnt : Nat := 32
/-- The default of `W_ILL` (00_scope.md R7). -/
abbrev Config.wIll : Nat := 32
/-- The default of `W_TS` (00_scope.md R7). -/
abbrev Config.wTs : Nat := 64
/-- The default of `W_DB` (00_scope.md R7). -/
abbrev Config.wDb : Nat := 32

/-- `QDEC_UPDATE`: whether the consumer's counter update is one event or a load and a later store
(20_memory.md R43, R44). -/
inductive Update where
  | rmw
  | split
deriving DecidableEq, Repr, Inhabited

/-- `PID_INIT`: the eight configuration values of unit P at construction (00_scope.md R7). -/
structure PidInit (α : Type) where
  kp   : α
  ki   : α
  kd   : α
  outA : α
  outB : α
  intA : α
  intB : α
  kaw  : α
deriving DecidableEq, Repr, Inhabited

/-- The parameters of one block (00_scope.md R7), over a number system `NUM` whose values are `α`. No step changes
one (assumption 3). `N_MOTORS` is the parameter of a platform (Machine/Platform.lean). -/
structure Params (α : Type) where
  /-- `W_CNT`, at least 32. -/
  wCnt         : Nat
  /-- `W_ILL`. -/
  wIll         : Nat
  /-- `W_TS`, at most the 64 bits of a slot. -/
  wTs          : Nat
  /-- `W_DB`, at most the 64 bits of a slot. -/
  wDb          : Nat
  /-- `WAIT_TIMEOUT`, greater than 0: timing only, no rule depends on it. -/
  waitTimeout  : Nat
  /-- `DEBOUNCE_INIT`, in `U(W_DB)`. -/
  debounceInit : Nat
  /-- `QDEC_UPDATE`. -/
  update       : Update
  /-- `EPS_DT`, greater than 0 (41_pid.md R120). -/
  epsDt        : α
  /-- `PID_INIT`. -/
  pidInit      : PidInit α
deriving DecidableEq, Repr

/-- `WAIT_TIMEOUT` is OPEN (00_scope.md R7); this constant is one less. -/
opaque Config.waitTimeoutPred : Nat
/-- `DEBOUNCE_INIT` is OPEN: the source has no value and the spec fixes none (00_scope.md R7). -/
opaque Config.debounceInit : BitVec Config.wDb
/-- `PID_INIT` is OPEN: the source has no values and the spec fixes none (00_scope.md R7). -/
opaque Config.pidInit : PidInit Num64

/-- `EPS_DT` at its default: the binary64 value nearest 10^-6 (00_scope.md R7, 41_pid.md R120). -/
def Config.epsDt : Num64 := ⟨false, 0x3EB0C6F7A0B5ED8D⟩

/-- The parameters with every default of 00_scope.md R7, given those that are OPEN and the `EPS_DT` of the number
system. -/
def Params.default {α : Type} (waitTimeout debounceInit : Nat) (epsDt : α) (pidInit : PidInit α) : Params α :=
  { wCnt := Config.wCnt, wIll := Config.wIll, wTs := Config.wTs, wDb := Config.wDb, waitTimeout := waitTimeout
    debounceInit := debounceInit, update := .rmw, epsDt := epsDt, pidInit := pidInit }

/-- The parameters of the machine at reset: defaults where R7 gives one, opaque where R7 says OPEN. -/
def Config.params : Params Num64 :=
  Params.default (Config.waitTimeoutPred + 1) Config.debounceInit.toNat Config.epsDt Config.pidInit

/-- FREE VALUE: the answer of the debounce test for a timestamp that ran backwards (40_qdec.md R82, `any`;
assumption 6). -/
opaque Config.freeVerdict : Nat → Bool
/-- FREE VALUE: the sign of a zero that a rule produces (41_pid.md R122: not specified; assumption 5). -/
opaque Config.freeZeroSign : Nat → Bool
/-- FREE VALUE: what a channel's timestamp holds before its first event (10_state.md R14: unspecified;
assumption 7). -/
opaque Config.freeStamp : Nat → Nat
/-- FREE VALUE: the answer of a level read that no stimulus gives (60_exceptions.md R165; assumption 8). -/
opaque Config.freeLevel : Nat → Level

end Sys2Proof
end

