-- ==== Sys2Proof/WellFormed.lean ====
section
/-! DEFINITION. The checks on an operation's operands that its type does not make: the must-be-zero parts that depend
on a width (30_encoding.md R63, R64). Every 64-bit pattern may stand in a `NUM` slot; whether it is an ordered value is
not a matter of encoding (41_pid.md R122). -/

namespace Sys2Proof

/-- The bits of a slot above an unsigned integer of `n` bits are 0 (30_encoding.md R64). -/
def Slot.fits (n : Nat) (a : Slot) : Bool := a.toNat < 2 ^ n

/-- An operation that the format of its row admits, at the widths of the block (30_encoding.md R63, R64). -/
def Instr.wf {α : Type} (p : Params α) : Instr → Bool
  | .qrdCount => true
  | .qrdIllegal => true
  | .qreset => true
  | .qsetDebounce us => Slot.fits p.wDb us
  | .qedge _ ts _ _ => Slot.fits p.wTs ts
  | .pstep _ _ _ => true
  | .preset _ _ => true
  | .psetKp _ => true
  | .psetKi _ => true
  | .psetKd _ => true
  | .psetOutLimits _ _ => true
  | .psetIntLimits _ _ => true
  | .psetAwGain _ => true
  | .prdInteg => true
  | .prdLastU => true
  | .prdLastY => true
  | .bconstruct _ _ _ => true
  | .bstop => true
  | .brelease => true

end Sys2Proof
end

