-- ==== Sys2Proof/Decode.lean ====
section
/-! DEFINITION. The decoder of records, total and rejecting by name (30_encoding.md R60, R63 to R67), then the
encoder, the host's `decodeTableWord`, and the expansion of the pseudo-operations (R69). -/

namespace Sys2Proof

/-- Why a record stands for no operation. -/
inductive DecodeError where
  /-- The `op` byte is reserved (30_encoding.md R67). -/
  | reservedOpcode (op : BitVec 8)
  /-- A bit of an event or lifecycle slot that R63 wants to be 0 is 1. -/
  | mustBeZero
  /-- A level answer has the code 3, which R63 says is never used. -/
  | unusedLevelCode
deriving DecidableEq, Repr

/-- `op` = bits 199:192 (30_encoding.md R60). -/
def Record.op (w : Record) : BitVec 8 := w.extractLsb' 192 8
/-- `a` = bits 191:128 (30_encoding.md R60). -/
def Record.slotA (w : Record) : Slot := w.extractLsb' 128 64
/-- `b` = bits 127:64 (30_encoding.md R60). -/
def Record.slotB (w : Record) : Slot := w.extractLsb' 64 64
/-- `c` = bits 63:0 (30_encoding.md R60). -/
def Record.slotC (w : Record) : Slot := w.extractLsb' 0 64

/-- A record from its four fields, `op` highest (30_encoding.md R60). -/
def Record.pack (op : BitVec 8) (a b c : Slot) : Record := op ++ a ++ b ++ c

/-- A level answer from its code: 0, 1, 2 = `fail`, 3 never used (30_encoding.md R63, format `EV`). -/
def Level.ofCode (x : BitVec 2) : Option Level :=
  if x = 0#2 then some .low else if x = 1#2 then some .high else if x = 2#2 then some .fail else none

/-- The code of a level answer (30_encoding.md R63, format `EV`). -/
def Level.code : Level → BitVec 2
  | .low => 0#2
  | .high => 1#2
  | .fail => 2#2

/-- `a[0]`: 0 = A, 1 = B (30_encoding.md R63, format `EV`). -/
def Channel.ofBit (x : Bool) : Channel := if x then .B else .A

/-- The bit that names a channel (30_encoding.md R63, format `EV`). -/
def Channel.bit : Channel → Bool
  | .A => false
  | .B => true

/-- The two level answers of a `c` slot: `c[1:0]` of channel A, `c[3:2]` of channel B (30_encoding.md R63). -/
def Slot.levels (c : Slot) : Option (Level × Level) :=
  match Level.ofCode (c.extractLsb' 0 2), Level.ofCode (c.extractLsb' 2 2) with
  | some a, some b => some (a, b)
  | _, _ => none

/-- Format `EV` (30_encoding.md R63). The must-be-zero part of slot `b`, which depends on `W_TS`, is `Instr.wf`'s. -/
def decodeEdge (a b c : Slot) : Except DecodeError Instr :=
  if a.extractLsb' 1 63 ≠ 0 ∨ c.extractLsb' 4 60 ≠ 0 then .error .mustBeZero
  else match Slot.levels c with
    | some (lvA, lvB) => .ok (.qedge (Channel.ofBit (a.getLsbD 0)) b lvA lvB)
    | none => .error .unusedLevelCode

/-- Format `LC` of `BCONSTRUCT` (30_encoding.md R63). -/
def decodeConstruct (c : Slot) : Except DecodeError Instr :=
  if c.extractLsb' 5 59 ≠ 0 then .error .mustBeZero
  else match Slot.levels c with
    | some (lvA, lvB) => .ok (.bconstruct (c.getLsbD 4) lvA lvB)
    | none => .error .unusedLevelCode

/-- The operation of a record (30_encoding.md R66); `op` alone tells which (R60), unused slots are ignored (R63).
The must-be-zero test of a command is made at admission, after the lifecycle test (R62). -/
def decode (w : Record) : Except DecodeError Instr :=
  let a := Record.slotA w
  let b := Record.slotB w
  let c := Record.slotC w
  match (Record.op w).toNat with
  | 0x01 => .ok .qrdCount
  | 0x02 => .ok .qrdIllegal
  | 0x03 => .ok .qreset
  | 0x04 => .ok (.qsetDebounce a)
  | 0x10 => decodeEdge a b c
  | 0x20 => .ok (.pstep a b c)
  | 0x21 => .ok (.preset a b)
  | 0x22 => .ok (.psetKp a)
  | 0x23 => .ok (.psetKi a)
  | 0x24 => .ok (.psetKd a)
  | 0x25 => .ok (.psetOutLimits a b)
  | 0x26 => .ok (.psetIntLimits a b)
  | 0x27 => .ok (.psetAwGain a)
  | 0x28 => .ok .prdInteg
  | 0x29 => .ok .prdLastU
  | 0x2A => .ok .prdLastY
  | 0xF0 => decodeConstruct c
  | 0xF1 => .ok .bstop
  | 0xF2 => .ok .brelease
  | _ => .error (.reservedOpcode (Record.op w))

/-- The `op` byte of an operation (30_encoding.md R66). -/
def opcode : Instr → BitVec 8
  | .qrdCount => 0x01#8
  | .qrdIllegal => 0x02#8
  | .qreset => 0x03#8
  | .qsetDebounce _ => 0x04#8
  | .qedge _ _ _ _ => 0x10#8
  | .pstep _ _ _ => 0x20#8
  | .preset _ _ => 0x21#8
  | .psetKp _ => 0x22#8
  | .psetKi _ => 0x23#8
  | .psetKd _ => 0x24#8
  | .psetOutLimits _ _ => 0x25#8
  | .psetIntLimits _ _ => 0x26#8
  | .psetAwGain _ => 0x27#8
  | .prdInteg => 0x28#8
  | .prdLastU => 0x29#8
  | .prdLastY => 0x2A#8
  | .bconstruct _ _ _ => 0xF0#8
  | .bstop => 0xF1#8
  | .brelease => 0xF2#8

/-- The `c` slot that holds an acquisition answer and two level answers (30_encoding.md R63). -/
def Slot.ofLevels (fails : Bool) (lvA lvB : Level) : Slot :=
  (0#59 ++ BitVec.ofBool fails ++ Level.code lvB ++ Level.code lvA : BitVec 64)

/-- The record of an operation, a slot it ignores written 0 (30_encoding.md R60, R63, R66). -/
def encode (i : Instr) : Record :=
  let pack := Record.pack (opcode i)
  match i with
  | .qrdCount => pack 0 0 0
  | .qrdIllegal => pack 0 0 0
  | .qreset => pack 0 0 0
  | .qsetDebounce us => pack us 0 0
  | .qedge ch ts lvA lvB =>
      pack ((0#63 ++ BitVec.ofBool (Channel.bit ch) : BitVec 64)) ts (Slot.ofLevels false lvA lvB)
  | .pstep ref meas dt => pack ref meas dt
  | .preset iseed eseed => pack iseed eseed 0
  | .psetKp v => pack v 0 0
  | .psetKi v => pack v 0 0
  | .psetKd v => pack v 0 0
  | .psetOutLimits a b => pack a b 0
  | .psetIntLimits a b => pack a b 0
  | .psetAwGain v => pack v 0 0
  | .prdInteg => pack 0 0 0
  | .prdLastU => pack 0 0 0
  | .prdLastY => pack 0 0 0
  | .bconstruct acquireFails lvA lvB => pack 0 0 (Slot.ofLevels acquireFails lvA lvB)
  | .bstop => pack 0 0 0
  | .brelease => pack 0 0 0

/-- The instruction the decoder reads from the 200-bit record `w`, numbered as spec/opcode_table.json numbers it
(bit 199 the highest); bits at `nbits` and above are 0. -/
def decodeTableWord (nbits w : Nat) : Option Instr :=
  (decode (BitVec.ofNat 200 (w % 2 ^ nbits))).toOption

/-- The operations a pseudo-operation expands to, in order (30_encoding.md R69). What the two records of a `QWAKE` do after
a stop is assumption 10. -/
def Pseudo.expand : Pseudo → List Instr
  | .psetGains kp ki kd => [.psetKp kp, .psetKi ki, .psetKd kd]
  | .qwake .A evA evB => [.qedge .A evA.ts evA.lvA evA.lvB, .qedge .B evB.ts evB.lvA evB.lvB]
  | .qwake .B evA evB => [.qedge .B evB.ts evB.lvA evB.lvB, .qedge .A evA.ts evA.lvA evA.lvB]
  | .qtimeout => []

end Sys2Proof
end

