-- ==== Sys2Proof/Machine/State.lean ====
section
/-! DEFINITION. Everything the spec gives the block (10_state.md R10, R26 to R28), what its environment is going to
do (the stimuli the step reads), what it puts out, and the reasons a step can stop. Plain data. -/

namespace Sys2Proof.Machine

/-- `Q.lastTs[ch]`, in `U(W_TS)`, with `Q.lastTsValid[ch]` (10_state.md R14). -/
structure Stamp where
  ts    : Nat
  valid : Bool
deriving DecidableEq, Repr

/-- Unit Q (10_state.md R10 to R15). Its widths are parameters, so a counter is a number that its rules wrap, in the
set `S(n)` or `U(n)` of 00_scope.md R8. -/
structure UnitQ where
  /-- `Q.count`, in `S(W_CNT)` (R11). -/
  count      : Int
  /-- `Q.phase`: a byte-wide cell of which bits 1:0 are used, bit 1 channel A (R12). -/
  phase      : BitVec 8
  /-- `Q.illegal`, in `U(W_ILL)` (R13). -/
  illegal    : Nat
  /-- `Q.lastTs[A]`, `Q.lastTsValid[A]` (R14). -/
  stampA     : Stamp
  /-- `Q.lastTs[B]`, `Q.lastTsValid[B]` (R14). -/
  stampB     : Stamp
  /-- `Q.debounce_us`, microseconds in `U(W_DB)` (R15). -/
  debounceUs : Nat
deriving DecidableEq, Repr

/-- Unit P over a number system (10_state.md R10, R18 to R24; 41_pid.md R120). -/
structure UnitP (α : Type) where
  kp      : α
  ki      : α
  kd      : α
  outMin  : α
  outMax  : α
  intMin  : α
  intMax  : α
  kaw     : α
  integ   : α
  prevErr : α
  lastU   : α
  lastY   : α
deriving DecidableEq, Repr

/-- `B.life` (10_state.md R26). -/
inductive Life where
  | unbuilt
  | running
  | stopped
  | released
  | failed
deriving DecidableEq, Repr

/-- What the block holds of the EdgeSource (60_exceptions.md R168): not acquired, acquired, given back. -/
inductive Source where
  | absent
  | held
  | released
deriving DecidableEq, Repr

/-- A `QEDGE` in flight, past its debounce test and timestamp store (40_qdec.md R81; 10_state.md R28). -/
inductive EdgeStage where
  /-- The levels are to be read (40_qdec.md R81). -/
  | accepted
  /-- `split` only: `Q.count` was loaded as `v`, `v + delta` is to be stored (20_memory.md R44). -/
  | countLoaded (v : Int) (delta : Int) (new : BitVec 2)
  /-- `split` only: `Q.illegal` was loaded as `v`, `v + 1` is to be stored (20_memory.md R44). -/
  | illegalLoaded (v : Nat) (new : BitVec 2)
deriving DecidableEq, Repr

/-- The consumer's control state (10_state.md R28(a); the loop of 40_qdec.md R80). -/
inductive Consumer where
  /-- Not started, or exited. -/
  | gone
  /-- At the top of an iteration, about to look at `B.run`. -/
  | top
  /-- Blocked in `WaitReady`. -/
  | blocked
  /-- Servicing a wake: the ready channels still to visit, in the order of the visits. -/
  | servicing (rest : List Channel)
  /-- Inside the `QEDGE` of one channel of a wake; `rest` is to be visited after it. -/
  | inEdge (rest : List Channel) (stage : EdgeStage)
deriving DecidableEq, Repr

/-- The block-level elements (10_state.md R26, R27) and the hidden ones (R28(a)). -/
structure Block where
  /-- `B.life` (R26). -/
  life     : Life
  /-- `B.run` (R27). -/
  run      : Bool
  /-- The EdgeSource's handle (60_exceptions.md R168). -/
  source   : Source
  /-- A `BRELEASE` waits for the consumer's exit (60_exceptions.md R177). -/
  joining  : Bool
  /-- The consumer's control state. -/
  consumer : Consumer
deriving DecidableEq, Repr

/-- The host agents (20_memory.md R39). -/
inductive HostAgent where
  | foreground
  | housekeeping
  | orchestrator
deriving DecidableEq, Repr

/-- The store that a `QRESET` in flight has still to make (10_state.md R28(b); 40_qdec.md R92). -/
inductive ResetLeft where
  | countLeft
  | illegalLeft
deriving DecidableEq, Repr

/-- Each host agent's `QRESET` in flight, if any. -/
structure Hosts where
  foreground   : Option ResetLeft
  housekeeping : Option ResetLeft
  orchestrator : Option ResetLeft
deriving DecidableEq, Repr

/-- `status` of a response (30_encoding.md R61). -/
inductive Status where
  | ok
  | illegalCmd
  | notReady
deriving DecidableEq, Repr

/-- What the `val` field of a response carries (30_encoding.md R65): an integer, sign-extended or zero-extended, or a
`NUM` value. -/
inductive Val (α : Type) where
  | int (v : Int)
  | num (x : α)
deriving DecidableEq, Repr

/-- A response: its status and `val` (30_encoding.md R61). -/
structure Response (α : Type) where
  status : Status
  val    : Val α
deriving DecidableEq, Repr

/-- The outcome labels (60_exceptions.md R160). -/
inductive Label where
  | applied
  | noChange
  | illegal
  | debounced
  | readFail
  | constructed
  | constructFail
deriving DecidableEq, Repr

/-- What the block puts out: a response at a host agent's port, or the label an event ends with. -/
inductive Output (α : Type) where
  | response (g : HostAgent) (r : Response α)
  | outcome (l : Label)
deriving DecidableEq, Repr

/-- How a host's command runs: without another agent's event inside, or only as far as its first event. The latter
differs for `QRESET` alone, and names the store made first (40_qdec.md R92, `any`). -/
inductive Pace where
  | whole
  | countFirst
  | illegalFirst
deriving DecidableEq, Repr

/-- An answer of `WaitReady`: a set of channels (60_exceptions.md R166) and the order they are served in
(40_qdec.md R80, `any`). -/
inductive Ready where
  | none
  | onlyA
  | onlyB
  | aThenB
  | bThenA
deriving DecidableEq, Repr

/-- The EdgeSource's answers to whichever primitives the consumer's next event asks: a ready set (60_exceptions.md
R166), an event's timestamp (R167), the two levels (R165). -/
structure Answers where
  ready : Ready
  event : Option Slot
  lvA   : Level
  lvB   : Level
deriving DecidableEq, Repr

/-- One thing that happens next, from outside: which agent moves and with what input (20_memory.md R46). -/
inductive Stimulus where
  /-- A host agent sends a record to the command port (30_encoding.md R60). -/
  | command (g : HostAgent) (w : Record) (pace : Pace)
  /-- An event or lifecycle record of a trace (30_encoding.md R60), run without another agent's event inside. -/
  | environment (w : Record)
  /-- The consumer takes its next event, with these answers if it asks (40_qdec.md R80). -/
  | consumer (answers : Answers)
  /-- A host agent takes the next event of its `QRESET` in flight (40_qdec.md R92). -/
  | resume (g : HostAgent)
  /-- A waiting `BRELEASE` looks whether the consumer has exited (60_exceptions.md R177). -/
  | join
deriving DecidableEq, Repr

/-- The machine: one block over a number system `NUM` with the values `α` (41_pid.md R120). `State` alone is the machine
over the recommended instance, binary64. -/
structure State (α : Type := Num64) where
  /-- Unit Q. -/
  q      : UnitQ
  /-- Unit P. -/
  p      : UnitP α
  /-- The block-level elements and the consumer. -/
  b      : Block
  /-- Each host agent's command in flight. -/
  hosts  : Hosts
  /-- The parameters of 00_scope.md R7: no step changes them. -/
  params : Params α
  /-- What happens next, oldest first: a run is one sequence of these (30_encoding.md R60; 20_memory.md R46). -/
  inbox  : List Stimulus
  /-- What the latest step put out, oldest first. -/
  out    : List (Output α)
  /-- The host agent whose command was served last, to whose port a response goes. -/
  port   : HostAgent
  /-- The model's own counter of free values used. -/
  fresh  : Nat
deriving DecidableEq, Repr

/-- Why the machine stops with a fault. The block itself has no fault state (93_implementation_defined.md, part 1);
this one says that its input is outside the spec. -/
inductive Fault where
  /-- Raised by the step when a trace holds, as an event or lifecycle stimulus, a word that stands for none
  (30_encoding.md R63: a must-be-zero bit is 1 or a level code is 3; R60: it is a command, or nothing). Safe. -/
  | notAStimulus
deriving DecidableEq, Repr

/-- Why an instruction is given no meaning. -/
inductive Refusal where
  /-- An instruction of the table that has no meaning yet. Safe. -/
  | notModelled (mnemonic : String)
  /-- Raised by the `P` commands that take an operand, for a value outside the order, and by `PSTEP` when an
  intermediate leaves it: 41_pid.md R122 says that the model refuses it. Safe. -/
  | unorderedNum
deriving DecidableEq, Repr

/-- Positive zero, which unit P's elements hold before construction (assumption 4). -/
def zeroNum : Num64 := ⟨false, 0⟩

/-- A block before construction, which is its only reset (10_state.md R33): `UNBUILT` (R26), nothing pending, no
element of units Q and P observable. The values of those elements here are named in assumption 4; the values the spec
gives them are those that `BCONSTRUCT` writes. -/
def State.unbuilt {α : Type} (zero : α) (params : Params α) : State α :=
  { q := { count := 0, phase := 0, illegal := 0, stampA := ⟨0, false⟩, stampB := ⟨0, false⟩, debounceUs := 0 }
    p := { kp := zero, ki := zero, kd := zero, outMin := zero, outMax := zero, intMin := zero, intMax := zero,
           kaw := zero, integ := zero, prevErr := zero, lastU := zero, lastY := zero }
    b := { life := .unbuilt, run := false, source := .absent, joining := false, consumer := .gone }
    hosts := ⟨none, none, none⟩
    params := params
    inbox := []
    out := []
    port := .foreground
    fresh := 0 }

/-- The machine before construction, over binary64, with the parameters of `Config.params`. -/
def State.reset : State := State.unbuilt zeroNum Config.params

end Sys2Proof.Machine
end

