-- ==== Sys2Proof/Machine/Flags.lean ====
section
/-! DEFINITION. The block has no flags (10_state.md R31). What stands here is what classifies an edge: the
transition table (40_qdec.md R84), the illegal predicate, and the outcome labels and their codes (60_exceptions.md
R160). -/

namespace Sys2Proof.Machine

/-- `QTAB`: row = old phase, column = new phase, states in the order 00, 01, 10, 11 (40_qdec.md R84). -/
def qtabRows : List (List Int) :=
  [[0, 1, -1, 0],
   [-1, 0, 0, 1],
   [1, 0, 0, -1],
   [0, -1, 1, 0]]

/-- `QTAB[old][new]` (40_qdec.md R84). -/
def qtab (old new : BitVec 2) : Int := (qtabRows.getD old.toNat []).getD new.toNat 0

/-- `ILLEGAL(old, new)`: both bits differ (40_qdec.md R84). -/
def illegalStep (old new : BitVec 2) : Bool := old ^^^ new = 3#2

/-- The outcome that a table step raises (40_qdec.md R85). -/
def tableLabel (old new : BitVec 2) : Label :=
  if qtab old new ≠ 0 then .applied else if illegalStep old new then .illegal else .noChange

/-- The code of an outcome label (60_exceptions.md R160). -/
def Label.code : Label → Nat
  | .applied => 0
  | .noChange => 1
  | .illegal => 2
  | .debounced => 3
  | .readFail => 4
  | .constructed => 5
  | .constructFail => 6

/-- The level bit of an answer, none for `fail` (60_exceptions.md R165). -/
def levelBit : Level → Option Bool
  | .low => some false
  | .high => some true
  | .fail => none

/-- `{lvA, lvB}`, channel A in bit 1, or none when a level read failed (40_qdec.md R81; 10_state.md R12). -/
def phaseOf (lvA lvB : Level) : Option (BitVec 2) :=
  match levelBit lvA, levelBit lvB with
  | some a, some b => some (BitVec.ofBool a ++ BitVec.ofBool b)
  | _, _ => none

end Sys2Proof.Machine
end

