-- ==== Sys2Proof/Machine/Number.lean ====
section
/-! DEFINITION. Number systems for unit P (41_pid.md R120): what a `NUM` must supply, the exact instance, and the
binary64 instance with its one rounding per operation, which is the machine's. -/

namespace Sys2Proof.Machine

/-- What `NUM` must supply (41_pid.md R120), and how one of its values sits in a slot (30_encoding.md R64): `ofSlot`
answers none for a slot that holds no ordered value. An operation answers none where the result is outside the order (R122).
The first argument of an operation is its place in a rule: the sign of a zero it gives is free for each place. -/
structure NumSys (α : Type) where
  zero : Nat → α
  epsDt : α
  ofSlot : Slot → Option α
  add  : Nat → α → α → Option α
  sub  : Nat → α → α → Option α
  mul  : Nat → α → α → Option α
  div  : Nat → α → α → Option α
  lt   : α → α → Bool
  le   : α → α → Bool
  eq   : α → α → Bool

/-- The magnitude of a pattern of bits 62:0, in units of 2^-1074, the smallest subnormal: exponent bits 62:52,
fraction bits 51:0 (30_encoding.md R64). -/
@[irreducible] def Num64.magnitude (m : Nat) : Nat :=
  let e := m / 2 ^ 52
  let f := m % 2 ^ 52
  if e = 0 then f else (2 ^ 52 + f) * 2 ^ (e - 1)

/-- The value of a `NUM` in units of 2^-1074; both zeros have the value 0. -/
def Num64.toInt (x : Num64) : Int :=
  if x.mag.val = 0 then 0
  else if x.neg then -(Num64.magnitude x.mag.val : Int) else (Num64.magnitude x.mag.val : Int)

/-- The value of a `NUM` as a rational. -/
def Num64.toRat (x : Num64) : Rat := (Num64.toInt x : Rat) / (2 ^ 1074 : Nat)

/-- A `NUM` operand: the slot is a binary64 pattern, sign in bit 63 (30_encoding.md R64); none for an infinity or a
not-a-number (41_pid.md R122). -/
def numOfSlot (v : Slot) : Option Num64 :=
  if h : v.toNat % 2 ^ 63 < Num64.limit then some ⟨v.getLsbD 63, ⟨v.toNat % 2 ^ 63, h⟩⟩ else none

/-- A `NUM` value as the 64-bit pattern of a slot or of `val` (30_encoding.md R64, R65). -/
def slotOfNum (x : Num64) : Slot := BitVec.ofBool x.neg ++ BitVec.ofNat 63 x.mag.val

/-- The *exact* instance: the rationals, with `EPS_DT = 1/1000000` (41_pid.md R120). A slot holds the rational that its
binary64 pattern denotes (assumption 2). -/
def exact : NumSys Rat :=
  { zero := fun _ => 0
    epsDt := 1 / 1000000
    ofSlot := fun v => (numOfSlot v).map Num64.toRat
    add := fun _ x y => some (x + y)
    sub := fun _ x y => some (x - y)
    mul := fun _ x y => some (x * y)
    div := fun _ x y => if y = 0 then none else some (x / y)
    lt := fun x y => decide (x < y)
    le := fun x y => decide (x ≤ y)
    eq := fun x y => decide (x = y) }

/-- `n / d` rounded to the nearest integer, ties to even. -/
@[irreducible] def roundNearestEven (n d : Nat) : Nat :=
  let q := n / d
  let r := n % d
  if 2 * r < d then q
  else if d < 2 * r then q + 1
  else if q % 2 = 0 then q else q + 1

/-- The pattern of the binary64 magnitude nearest `n / d` units of 2^-1074, ties to even, or none on overflow
(41_pid.md R120). The significand keeps 53 bits; one that rounds up to 2^53 carries into the exponent field. -/
@[irreducible] def roundMagnitude (n d : Nat) : Option (Fin Num64.limit) :=
  let shift := Nat.log2 (n / d) - 52
  let m := shift * 2 ^ 52 + roundNearestEven n (d * 2 ^ shift)
  if h : m < Num64.limit then some ⟨m, h⟩ else none

/-- The `NUM` nearest `n / d` units with the sign `neg`; a zero takes the free sign `zeroSign` (41_pid.md R122). -/
def Num64.ofRatio (zeroSign neg : Bool) (n d : Nat) : Option Num64 :=
  (roundMagnitude n d).map fun m => ⟨if m.val = 0 then zeroSign else neg, m⟩

/-- binary64 addition, rounded once (41_pid.md R120). -/
def Num64.add (zeroSign : Bool) (x y : Num64) : Option Num64 :=
  let k := Num64.toInt x + Num64.toInt y
  Num64.ofRatio zeroSign (decide (k < 0)) k.natAbs 1

/-- binary64 subtraction, rounded once (41_pid.md R120). -/
def Num64.sub (zeroSign : Bool) (x y : Num64) : Option Num64 :=
  let k := Num64.toInt x - Num64.toInt y
  Num64.ofRatio zeroSign (decide (k < 0)) k.natAbs 1

/-- binary64 multiplication, rounded once (41_pid.md R120). -/
def Num64.mul (zeroSign : Bool) (x y : Num64) : Option Num64 :=
  let k := Num64.toInt x * Num64.toInt y
  Num64.ofRatio zeroSign (decide (k < 0)) k.natAbs (2 ^ 1074)

/-- binary64 division, rounded once; a zero divisor gives no ordered value (41_pid.md R120, R122). -/
def Num64.div (zeroSign : Bool) (x y : Num64) : Option Num64 :=
  let k := Num64.toInt x
  let l := Num64.toInt y
  if l = 0 then none
  else Num64.ofRatio zeroSign (decide (k * l < 0)) (k.natAbs * 2 ^ 1074) l.natAbs

/-- The *binary64* instance (41_pid.md R120), given the free signs of the zeros its operations produce. -/
def binary64 (zeroSign : Nat → Bool) : NumSys Num64 :=
  { zero := fun k => ⟨zeroSign k, 0⟩
    epsDt := Config.epsDt
    ofSlot := numOfSlot
    add := fun k => Num64.add (zeroSign k)
    sub := fun k => Num64.sub (zeroSign k)
    mul := fun k => Num64.mul (zeroSign k)
    div := fun k => Num64.div (zeroSign k)
    lt := fun x y => decide (Num64.toInt x < Num64.toInt y)
    le := fun x y => decide (Num64.toInt x ≤ Num64.toInt y)
    eq := fun x y => decide (Num64.toInt x = Num64.toInt y) }

/-- The machine's number system in a step that has used `fresh` free values so far. -/
def numSys (fresh : Nat) : NumSys Num64 := binary64 fun k => Config.freeZeroSign (fresh + k)

/-- `sat(v, lo, hi)` (41_pid.md R124). -/
def sat {α : Type} (N : NumSys α) (v lo hi : α) : α :=
  if N.lt v lo then lo else if N.lt hi v then hi else v

end Sys2Proof.Machine
end

