-- ==== Sys2Proof/Machine/Operands.lean ====
section
/-! DEFINITION. The operand forms and the results (30_encoding.md R63 to R65, R61). A `NUM` operand is read by the
number system's `ofSlot`. -/

namespace Sys2Proof.Machine

/-- The operand of format `U1`, or none where a high bit of the slot is not 0 (30_encoding.md R63, R64). -/
def u1OfSlot {α : Type} (p : Params α) (v : Slot) : Option Nat := if Slot.fits p.wDb v then some v.toNat else none

/-- The timestamp of an event: the low `W_TS` bits of its slot (30_encoding.md R63, format `EV`). -/
def edgeTime {α : Type} (p : Params α) (ts : Slot) : Nat := ts.toNat % 2 ^ p.wTs

/-- The number of a status (30_encoding.md R61). -/
def Status.code : Status → BitVec 8
  | .ok => 0x00#8
  | .illegalCmd => 0x01#8
  | .notReady => 0x02#8

/-- The width of the `val` field: 64, or the larger counter's (30_encoding.md R61, R65). -/
abbrev valWidth {α : Type} (p : Params α) : Nat := max 64 (max p.wCnt p.wIll)

/-- The bits of a `val` field of this width, given how a `NUM` value sits in a slot (30_encoding.md R65). In a field wider
than 64 bits a `NUM` sits in the low 64, the others 0: the model's choice, assumption 1. -/
def Val.bits {α : Type} (slotOf : α → Slot) (width : Nat) : Val α → BitVec width
  | .int v => BitVec.ofInt width v
  | .num x => (slotOf x).setWidth width

/-- The word of a response, of 72 bits at the default widths: `status` above `val` (30_encoding.md R61). -/
def Response.word (p : Params Num64) (r : Response Num64) : BitVec (8 + valWidth p) :=
  Status.code r.status ++ Val.bits slotOfNum (valWidth p) r.val

end Sys2Proof.Machine
end

