-- ==== Sys2Proof/Machine/Ops.lean ====
section
/-! DEFINITION. The named operations on the state's elements: the cell primitives (20_memory.md R41 to R43), the
timestamps, responses and outcomes, admission (30_encoding.md R62), a host agent's command in flight. The block has
no memory (20_memory.md R53) and takes no exception (60_exceptions.md R170). -/

namespace Sys2Proof.Machine

variable {α : Type}

/-- Puts one thing out. -/
def emit (o : Output α) (s : State α) : State α := { s with out := s.out ++ [o] }

/-- Ends an event with an outcome (00_scope.md R8, `raise`); nothing is stored (60_exceptions.md R160). -/
def raise (l : Label) (s : State α) : State α := emit (.outcome l) s

/-- Answers the command being served (30_encoding.md R61). -/
def respond (st : Status) (v : Val α) (s : State α) : State α := emit (.response s.port ⟨st, v⟩) s

/-- The response `OK` with a value (30_encoding.md R61). -/
def respondOk (v : Val α) (s : State α) : State α := respond .ok v s

/-- Whether the block admits commands: it is neither `UNBUILT`, `FAILED` nor `RELEASED` (30_encoding.md R62). -/
def observable (s : State α) : Bool :=
  match s.b.life with
  | .running => true
  | .stopped => true
  | .unbuilt => false
  | .released => false
  | .failed => false

/-- Admission of a command, first test (30_encoding.md R62): a block that is not observable answers `NOT_READY`
and nothing else happens. -/
def admitted (s : State α) (k : State α → Host.Outcome (State α) Fault Refusal) :
    Host.Outcome (State α) Fault Refusal :=
  if observable s then k s else .next (respond .notReady (.int 0) s)

/-- A command that the second test of 30_encoding.md R62 rejects, in the order of that rule. -/
def rejectCommand (s : State α) : State α :=
  if observable s then respond .illegalCmd (.int 0) s else respond .notReady (.int 0) s

/-- The model's counter of free values moves past those a rule has used. -/
def useFree (n : Nat) (s : State α) : State α := { s with fresh := s.fresh + n }

/-- `AtomicStore(Q.count, v)` (20_memory.md R42). -/
def storeCount (v : Int) (s : State α) : State α := { s with q := { s.q with count := v } }

/-- `AtomicStore(Q.illegal, v)` (20_memory.md R42). -/
def storeIllegal (v : Nat) (s : State α) : State α := { s with q := { s.q with illegal := v } }

/-- `AtomicStore(Q.phase, zext_8(v))` (20_memory.md R42; 10_state.md R12). -/
def storePhase (v : BitVec 2) (s : State α) : State α := { s with q := { s.q with phase := v.zeroExtend 8 } }

/-- `AtomicStore(Q.debounce_us, v)` (20_memory.md R42). -/
def storeDebounce (v : Nat) (s : State α) : State α := { s with q := { s.q with debounceUs := v } }

/-- `AtomicLoad(Q.phase)[1:0]` (40_qdec.md R85). -/
def loadPhase (s : State α) : BitVec 2 := s.q.phase.extractLsb' 0 2

/-- `wrapS_n(z)`: the member of `S(n)` congruent to `z` modulo `2^n` (00_scope.md R8). -/
def wrapS (n : Nat) (z : Int) : Int := Int.bmod z (2 ^ n)

/-- `wrapU_n(z)`: the member of `U(n)` congruent to `z` modulo `2^n` (00_scope.md R8). -/
def wrapU (n z : Nat) : Nat := z % 2 ^ n

/-- `wrapS_W_CNT(v + d)` (10_state.md R11). -/
def wrapCount (p : Params α) (v d : Int) : Int := wrapS p.wCnt (v + d)

/-- `wrapU_W_ILL(v + 1)` (10_state.md R13). -/
def wrapIllegal (p : Params α) (v : Nat) : Nat := wrapU p.wIll (v + 1)

/-- `AtomicAdd(Q.count, d)` (20_memory.md R43). -/
def addCount (d : Int) (s : State α) : State α := storeCount (wrapCount s.params s.q.count d) s

/-- `AtomicAdd(Q.illegal, +1)` (20_memory.md R43). -/
def addIllegal (s : State α) : State α := storeIllegal (wrapIllegal s.params s.q.illegal) s

/-- The stored timestamp of a channel (10_state.md R14). -/
def stampOf (ch : Channel) (s : State α) : Stamp :=
  match ch with
  | .A => s.q.stampA
  | .B => s.q.stampB

/-- `Q.lastTs[ch] <- ts`, `Q.lastTsValid[ch] <- 1` (40_qdec.md R83). -/
def storeStamp (ch : Channel) (ts : Nat) (s : State α) : State α :=
  match ch with
  | .A => { s with q := { s.q with stampA := ⟨ts, true⟩ } }
  | .B => { s with q := { s.q with stampB := ⟨ts, true⟩ } }

/-- The consumer goes to a control state (10_state.md R28(a)). -/
def setConsumer (c : Consumer) (s : State α) : State α := { s with b := { s.b with consumer := c } }

/-- Unit P gets new contents. -/
def setUnitP (p : UnitP α) (s : State α) : State α := { s with p := p }

/-- A host agent's `QRESET` in flight (10_state.md R28(b)). -/
def inFlight (g : HostAgent) (s : State α) : Option ResetLeft :=
  match g with
  | .foreground => s.hosts.foreground
  | .housekeeping => s.hosts.housekeeping
  | .orchestrator => s.hosts.orchestrator

/-- Sets a host agent's `QRESET` in flight. -/
def setInFlight (g : HostAgent) (r : Option ResetLeft) (s : State α) : State α :=
  match g with
  | .foreground => { s with hosts := { s.hosts with foreground := r } }
  | .housekeeping => { s with hosts := { s.hosts with housekeeping := r } }
  | .orchestrator => { s with hosts := { s.hosts with orchestrator := r } }

/-- The port at which a response appears is that of this host agent. -/
def servePort (g : HostAgent) (s : State α) : State α := { s with port := g }

/-- The second event of a `QRESET` in flight and its response (40_qdec.md R92); none in flight, nothing happens. -/
def finishReset (g : HostAgent) (s : State α) : State α :=
  match inFlight g s with
  | none => s
  | some .countLeft => respondOk (.int 0) (servePort g (setInFlight g none (storeCount 0 s)))
  | some .illegalLeft => respondOk (.int 0) (servePort g (setInFlight g none (storeIllegal 0 s)))

/-- The first event of a `QRESET` that is left in flight (40_qdec.md R92): the store named, and the other is left. -/
def beginReset (g : HostAgent) (left : ResetLeft) (s : State α) : State α :=
  match left with
  | .illegalLeft => setInFlight g (some .illegalLeft) (storeCount 0 s)
  | .countLeft => setInFlight g (some .countLeft) (storeIllegal 0 s)

/-- The consumer sees `B.run = 0` at the top of an iteration and exits (40_qdec.md R80; 60_exceptions.md R176). -/
def exitConsumer (s : State α) : State α := { s with b := { s.b with life := .stopped, consumer := .gone } }

/-- `Release()` once, and `B.life <- RELEASED` (60_exceptions.md R177). -/
def release (s : State α) : State α :=
  { s with b := { s.b with life := .released, source := .released, joining := false } }

end Sys2Proof.Machine
end

