-- ==== Sys2Proof/Machine/Pid.lean ====
section
/-! DEFINITION. Unit P (41_pid.md): the control law and the unit's operations over any number system, then the machine's
meanings, which are those of the binary64 instance. A number system stands here as a function `N` of the number of free
values used so far: the signs of the zeros it produces are free (41_pid.md R122). -/

namespace Sys2Proof.Machine

variable {α : Type}

/-- The step size: `EPS_DT` for `dt <= 0` (41_pid.md R123). -/
def stepSize (N : NumSys α) (eps dt : α) : α := if N.le dt (N.zero 13) then eps else dt

/-- The unclamped command `u` from the error and the step size (41_pid.md R125), in the order of R121. -/
def unclamped (N : NumSys α) (p : UnitP α) (e h : α) : Option α := do
  let prop ← N.mul 1 p.kp e
  let diff ← N.sub 2 e p.prevErr
  let scaled ← N.mul 3 p.kd diff
  let deriv ← N.div 4 scaled h
  let sum ← N.add 5 prop p.integ
  N.add 6 sum deriv

/-- The integrator's update by back-calculation (41_pid.md R128). -/
def backCalculate (N : NumSys α) (p : UnitP α) (e u y h : α) : Option α := do
  let kie ← N.mul 7 p.ki e
  let excess ← N.sub 8 y u
  let corr ← N.mul 9 p.kaw excess
  let rate ← N.add 10 kie corr
  let inc ← N.mul 11 rate h
  N.add 12 p.integ inc

/-- Whether conditional integration skips: the command is at or beyond a bound and the error pushes further into it
(41_pid.md R129). -/
def skipsIntegration (N : NumSys α) (p : UnitP α) (e u : α) : Bool :=
  (N.le p.outMax u && N.lt (N.zero 13) e) || (N.le u p.outMin && N.lt e (N.zero 13))

/-- The integrator's update by conditional integration (41_pid.md R129). -/
def integrateConditionally (N : NumSys α) (p : UnitP α) (e u h : α) : Option α :=
  if skipsIntegration N p e u then some p.integ
  else do
    let kie ← N.mul 7 p.ki e
    let inc ← N.mul 11 kie h
    N.add 12 p.integ inc

/-- The strategy is chosen by the one test `P.kaw > 0` (41_pid.md R127). -/
def nextIntegrator (N : NumSys α) (p : UnitP α) (e u y h : α) : Option α :=
  if N.lt (N.zero 13) p.kaw then backCalculate N p e u y h else integrateConditionally N p e u h

/-- The control law of `PSTEP` (41_pid.md R121): unit P after the step, whose `lastY` is the command returned, or
none where a value it computes is outside the order (R122). -/
def pidStep (N : NumSys α) (eps : α) (p : UnitP α) (ref meas dt : α) : Option (UnitP α) := do
  let h := stepSize N eps dt
  let e ← N.sub 0 ref meas
  let u ← unclamped N p e h
  let y := sat N u p.outMin p.outMax
  let i1 ← nextIntegrator N p e u y h
  some { p with integ := sat N i1 p.intMin p.intMax, prevErr := e, lastU := u, lastY := y }

/-- How many places of a rule may give a zero whose sign is free: those of `pidStep`. -/
abbrev pidStepPlaces : Nat := 13

/-- `PRESET` on unit P (41_pid.md R130). -/
def pidPreset (N : NumSys α) (iseed eseed : α) (p : UnitP α) : UnitP α :=
  { p with integ := sat N iseed p.intMin p.intMax, prevErr := eseed, lastU := N.zero 0, lastY := N.zero 1 }

/-- `PSET_OUT_LIMITS` on unit P: the pair is swapped if it is in the wrong order (41_pid.md R133). -/
def setOutLimits (N : NumSys α) (a b : α) (p : UnitP α) : UnitP α :=
  if N.lt b a then { p with outMin := b, outMax := a } else { p with outMin := a, outMax := b }

/-- `PSET_INT_LIMITS` on unit P: the same swap; the integrator is not clamped (41_pid.md R134). -/
def setIntLimits (N : NumSys α) (a b : α) (p : UnitP α) : UnitP α :=
  if N.lt b a then { p with intMin := b, intMax := a } else { p with intMin := a, intMax := b }

/-! ### The operations, over any `NUM` -/

/-- A command with one `NUM` operand; a value outside the order is refused (41_pid.md R122). -/
def withNum (N : NumSys α) (v : Slot) (k : α → Host.Outcome (State α) Fault Refusal) :
    Host.Outcome (State α) Fault Refusal :=
  match N.ofSlot v with
  | some x => k x
  | none => .refused .unorderedNum

/-- The end of a command that leaves unit P so: response `OK`, `val = 0`. -/
def finishP (p : UnitP α) (s : State α) : Host.Outcome (State α) Fault Refusal :=
  .next (respondOk (.int 0) (setUnitP p s))

/-- `PSTEP` (41_pid.md R121). -/
def pstepOver (N : Nat → NumSys α) (ref meas dt : Slot) (s : State α) : Host.Outcome (State α) Fault Refusal :=
  let n := N s.fresh
  admitted s fun s => withNum n ref fun r => withNum n meas fun m => withNum n dt fun t =>
    match pidStep n s.params.epsDt s.p r m t with
    | some p => .next (respondOk (.num p.lastY) (useFree pidStepPlaces (setUnitP p s)))
    | none => .refused .unorderedNum

/-- `PRESET` (41_pid.md R130). -/
def presetOver (N : Nat → NumSys α) (iseed eseed : Slot) (s : State α) : Host.Outcome (State α) Fault Refusal :=
  let n := N s.fresh
  admitted s fun s => withNum n iseed fun i => withNum n eseed fun e =>
    finishP (pidPreset n i e s.p) (useFree 2 s)

/-- `PSET_KP` (41_pid.md R131). -/
def psetKpOver (N : Nat → NumSys α) (v : Slot) (s : State α) : Host.Outcome (State α) Fault Refusal :=
  admitted s fun s => withNum (N s.fresh) v fun x => finishP { s.p with kp := x } s

/-- `PSET_KI` (41_pid.md R132). -/
def psetKiOver (N : Nat → NumSys α) (v : Slot) (s : State α) : Host.Outcome (State α) Fault Refusal :=
  admitted s fun s => withNum (N s.fresh) v fun x => finishP { s.p with ki := x } s

/-- `PSET_KD` (41_pid.md R140). -/
def psetKdOver (N : Nat → NumSys α) (v : Slot) (s : State α) : Host.Outcome (State α) Fault Refusal :=
  admitted s fun s => withNum (N s.fresh) v fun x => finishP { s.p with kd := x } s

/-- `PSET_AW_GAIN` (41_pid.md R135). -/
def psetAwGainOver (N : Nat → NumSys α) (v : Slot) (s : State α) : Host.Outcome (State α) Fault Refusal :=
  admitted s fun s => withNum (N s.fresh) v fun x => finishP { s.p with kaw := x } s

/-- `PSET_OUT_LIMITS` (41_pid.md R133). -/
def psetOutLimitsOver (N : Nat → NumSys α) (a b : Slot) (s : State α) : Host.Outcome (State α) Fault Refusal :=
  let n := N s.fresh
  admitted s fun s => withNum n a fun x => withNum n b fun y => finishP (setOutLimits n x y s.p) s

/-- `PSET_INT_LIMITS` (41_pid.md R134). -/
def psetIntLimitsOver (N : Nat → NumSys α) (a b : Slot) (s : State α) : Host.Outcome (State α) Fault Refusal :=
  let n := N s.fresh
  admitted s fun s => withNum n a fun x => withNum n b fun y => finishP (setIntLimits n x y s.p) s

/-- `PRD_INTEG` (41_pid.md R136). -/
def prdIntegOver (s : State α) : Host.Outcome (State α) Fault Refusal :=
  admitted s fun s => .next (respondOk (.num s.p.integ) s)

/-- `PRD_LAST_U` (41_pid.md R141). -/
def prdLastUOver (s : State α) : Host.Outcome (State α) Fault Refusal :=
  admitted s fun s => .next (respondOk (.num s.p.lastU) s)

/-- `PRD_LAST_Y` (41_pid.md R142). -/
def prdLastYOver (s : State α) : Host.Outcome (State α) Fault Refusal :=
  admitted s fun s => .next (respondOk (.num s.p.lastY) s)

/-! ### The machine's meanings -/

/-- `PSTEP` (41_pid.md R121). -/
def execPstep (ref meas dt : Slot) (s : State) : Host.Outcome State Fault Refusal := pstepOver numSys ref meas dt s

/-- `PRESET` (41_pid.md R130). -/
def execPreset (iseed eseed : Slot) (s : State) : Host.Outcome State Fault Refusal := presetOver numSys iseed eseed s

/-- `PSET_KP` (41_pid.md R131). -/
def execPsetKp (v : Slot) (s : State) : Host.Outcome State Fault Refusal := psetKpOver numSys v s

/-- `PSET_KI` (41_pid.md R132). -/
def execPsetKi (v : Slot) (s : State) : Host.Outcome State Fault Refusal := psetKiOver numSys v s

/-- `PSET_KD` (41_pid.md R140). -/
def execPsetKd (v : Slot) (s : State) : Host.Outcome State Fault Refusal := psetKdOver numSys v s

/-- `PSET_AW_GAIN` (41_pid.md R135). -/
def execPsetAwGain (v : Slot) (s : State) : Host.Outcome State Fault Refusal := psetAwGainOver numSys v s

/-- `PSET_OUT_LIMITS` (41_pid.md R133). -/
def execPsetOutLimits (a b : Slot) (s : State) : Host.Outcome State Fault Refusal := psetOutLimitsOver numSys a b s

/-- `PSET_INT_LIMITS` (41_pid.md R134). -/
def execPsetIntLimits (a b : Slot) (s : State) : Host.Outcome State Fault Refusal := psetIntLimitsOver numSys a b s

/-- `PRD_INTEG` (41_pid.md R136). -/
def execPrdInteg (s : State) : Host.Outcome State Fault Refusal := prdIntegOver s

/-- `PRD_LAST_U` (41_pid.md R141). -/
def execPrdLastU (s : State) : Host.Outcome State Fault Refusal := prdLastUOver s

/-- `PRD_LAST_Y` (41_pid.md R142). -/
def execPrdLastY (s : State) : Host.Outcome State Fault Refusal := prdLastYOver s

end Sys2Proof.Machine
end

