-- ==== Sys2Proof/Machine/Qdec.lean ====
section
/-! DEFINITION. Unit Q (40_qdec.md): the events of one `QEDGE`, the consumer's loop, and the unit's operations. -/

namespace Sys2Proof.Machine

variable {α : Type}

/-- The debounce test (40_qdec.md R82), reading `Q.debounce_us` once and the channel's stored timestamp. Where the
timestamp ran backwards the answer is the free value given. -/
def debounceTest (freeVerdict : Bool) (ch : Channel) (ts : Nat) (s : State α) : Bool :=
  if (stampOf ch s).valid = false then false
  else
    let diff : Int := (ts : Int) - ((stampOf ch s).ts : Int)
    if 0 ≤ diff then decide (diff < (s.q.debounceUs : Int)) else freeVerdict

/-- The channels of a wake still to visit, or the top of the next iteration (40_qdec.md R80). -/
def afterChannel : List Channel → Consumer
  | [] => .top
  | ch :: rest => .servicing (ch :: rest)

/-- The end of a `QEDGE`: its outcome, and the consumer goes on with the wake (60_exceptions.md R170). -/
def endEdge (l : Label) (rest : List Channel) (s : State α) : State α := raise l (setConsumer (afterChannel rest) s)

/-- The first event of a `QEDGE` (40_qdec.md R81 to R83): the debounce test, then the timestamp store, which is made
for a rejected event too. A rejected event ends here; the levels of another are to be read. -/
def beginEdge (ch : Channel) (ts : Slot) (rest : List Channel) (s : State α) : State α :=
  let s1 := useFree 1 (storeStamp ch (edgeTime s.params ts) s)
  if debounceTest (Config.freeVerdict s.fresh) ch (edgeTime s.params ts) s then endEdge .debounced rest s1
  else setConsumer (.inEdge rest .accepted) s1

/-- The table step as one event (40_qdec.md R85; 20_memory.md R49), for `QDEC_UPDATE = rmw`. -/
def tableStep (new : BitVec 2) (s : State α) : State α :=
  let old := loadPhase s
  let s1 := if qtab old new ≠ 0 then addCount (qtab old new) s else s
  let s2 := if illegalStep old new then addIllegal s1 else s1
  if new ≠ old then storePhase new s2 else s2

/-- The first event of a table step for `QDEC_UPDATE = split` (20_memory.md R44): the counter that changes is
loaded. Where none changes the new phase is the old one, and the edge ends. -/
def splitLoad (new : BitVec 2) (rest : List Channel) (s : State α) : State α :=
  let old := loadPhase s
  if qtab old new ≠ 0 then setConsumer (.inEdge rest (.countLoaded s.q.count (qtab old new) new)) s
  else if illegalStep old new then setConsumer (.inEdge rest (.illegalLoaded s.q.illegal new)) s
  else endEdge .noChange rest s

/-- The next event of the `QEDGE` in flight (40_qdec.md R81, R85, R86; 20_memory.md R44), with the answers of
`LevelRead` for the event that asks; none in flight, nothing happens. -/
def advanceEdge (lvA lvB : Level) (s : State α) : State α :=
  match s.b.consumer with
  | .inEdge rest .accepted =>
    match phaseOf lvA lvB with
    | none => endEdge .readFail rest s
    | some new =>
      match s.params.update with
      | .rmw => endEdge (tableLabel (loadPhase s) new) rest (tableStep new s)
      | .split => splitLoad new rest s
  | .inEdge rest (.countLoaded v delta new) =>
    endEdge .applied rest (storePhase new (storeCount (wrapCount s.params v delta) s))
  | .inEdge rest (.illegalLoaded v new) =>
    endEdge .illegal rest (storePhase new (storeIllegal (wrapIllegal s.params v) s))
  | .gone => s
  | .top => s
  | .blocked => s
  | .servicing _ => s

/-- The `QEDGE` in flight is brought to its end: at most two events are left. -/
def finishEdge (lvA lvB : Level) (s : State α) : State α := advanceEdge lvA lvB (advanceEdge lvA lvB s)

/-- A `QEDGE` in flight is brought to its end before another event is read (60_exceptions.md R172). The levels it may
still read are free values: they are no answers of the record that comes (30_encoding.md R63; assumption 10). -/
def settleEdge (s : State α) : State α :=
  match s.b.consumer with
  | .inEdge _ _ => finishEdge (Config.freeLevel s.fresh) (Config.freeLevel (s.fresh + 1)) (useFree 2 s)
  | .gone => s
  | .top => s
  | .blocked => s
  | .servicing _ => s

/-- The channels of an answer of `WaitReady`, in the order of the visits (40_qdec.md R80). -/
def Ready.channels : Ready → List Channel
  | .none => []
  | .onlyA => [.A]
  | .onlyB => [.B]
  | .aThenB => [.A, .B]
  | .bThenA => [.B, .A]

/-- The consumer's next event (40_qdec.md R80), with the EdgeSource's answers to what it asks. -/
def consumerTurn (a : Answers) (s : State α) : State α :=
  if s.b.life ≠ .running then s
  else match s.b.consumer with
    | .gone => s
    | .top => if s.b.run then setConsumer .blocked s else exitConsumer s
    | .blocked => setConsumer (afterChannel (Ready.channels a.ready)) s
    | .servicing [] => setConsumer .top s
    | .servicing (ch :: rest) =>
      match a.event with
      | none => setConsumer (afterChannel rest) s
      | some ts => beginEdge ch ts rest s
    | .inEdge _ _ => advanceEdge a.lvA a.lvB s

/-- The channels that follow `ch` in a wake, or none where `ch` is not among those to visit. -/
def restAfter (ch : Channel) : List Channel → Option (List Channel)
  | [] => none
  | c :: rest => if c = ch then some rest else restAfter ch rest

/-- The consumer reads one event and processes it to its end. -/
def wholeEdge (ch : Channel) (ts : Slot) (lvA lvB : Level) (rest : List Channel) (s : State α) : State α :=
  finishEdge lvA lvB (beginEdge ch ts rest s)

/-- The consumer reads and processes one event from the top of an iteration (40_qdec.md R80): it looks at `B.run`
first. -/
def edgeFromTop (ch : Channel) (ts : Slot) (lvA lvB : Level) (s : State α) : State α :=
  if s.b.run then wholeEdge ch ts lvA lvB [] s else exitConsumer s

/-- The consumer, outside a `QEDGE`, comes to read this event of channel `ch` and processes it to its end. Channels
it still had to visit before answer none (60_exceptions.md R167), and a wake that does not reach `ch` ends
(assumption 10). The wake of a consumer that was blocked visits `ch` alone, so the two records of a `QWAKE` are two wakes,
and with `B.run = 0` the second is dropped: the model's choice, assumption 10. -/
def reachEdge (ch : Channel) (ts : Slot) (lvA lvB : Level) (s : State α) : State α :=
  match s.b.consumer with
  | .gone => s
  | .top => edgeFromTop ch ts lvA lvB s
  | .blocked => wholeEdge ch ts lvA lvB [] s
  | .servicing rest =>
    match restAfter ch rest with
    | some later => wholeEdge ch ts lvA lvB later s
    | none => edgeFromTop ch ts lvA lvB (setConsumer .top s)
  | .inEdge _ _ => s

/-! ### The operations, over any `NUM` -/

/-- `QEDGE` (40_qdec.md R81). Only the consumer of a `RUNNING` block processes events (R80; 60_exceptions.md R176).
An event in flight is brought to its end first. -/
def qedgeOver (ch : Channel) (ts : Slot) (lvA lvB : Level) (s : State α) : Host.Outcome (State α) Fault Refusal :=
  if s.b.life = .running then .next (reachEdge ch ts lvA lvB (settleEdge s)) else .next s

/-- `QRD_COUNT` (40_qdec.md R90). -/
def qrdCountOver (s : State α) : Host.Outcome (State α) Fault Refusal :=
  admitted s fun s => .next (respondOk (.int s.q.count) s)

/-- `QRD_ILLEGAL` (40_qdec.md R91). -/
def qrdIllegalOver (s : State α) : Host.Outcome (State α) Fault Refusal :=
  admitted s fun s => .next (respondOk (.int s.q.illegal) s)

/-- `QRESET` with no event of another agent inside (40_qdec.md R92): the order of its stores cannot be seen. -/
def qresetOver (s : State α) : Host.Outcome (State α) Fault Refusal :=
  admitted s fun s => .next (respondOk (.int 0) (storeIllegal 0 (storeCount 0 s)))

/-- `QSET_DEBOUNCE` (40_qdec.md R93); a high bit of the slot that is 1 makes it `ILLEGAL_CMD` (30_encoding.md R64). -/
def qsetDebounceOver (us : Slot) (s : State α) : Host.Outcome (State α) Fault Refusal :=
  admitted s fun s =>
    match u1OfSlot s.params us with
    | some d => .next (respondOk (.int 0) (storeDebounce d s))
    | none => .next (rejectCommand s)

/-! ### The machine's meanings -/

/-- `QEDGE` (40_qdec.md R81). -/
def execQedge (ch : Channel) (ts : Slot) (lvA lvB : Level) (s : State) : Host.Outcome State Fault Refusal :=
  qedgeOver ch ts lvA lvB s

/-- `QRD_COUNT` (40_qdec.md R90). -/
def execQrdCount (s : State) : Host.Outcome State Fault Refusal := qrdCountOver s

/-- `QRD_ILLEGAL` (40_qdec.md R91). -/
def execQrdIllegal (s : State) : Host.Outcome State Fault Refusal := qrdIllegalOver s

/-- `QRESET` (40_qdec.md R92). -/
def execQreset (s : State) : Host.Outcome State Fault Refusal := qresetOver s

/-- `QSET_DEBOUNCE` (40_qdec.md R93). -/
def execQsetDebounce (us : Slot) (s : State) : Host.Outcome State Fault Refusal := qsetDebounceOver us s

end Sys2Proof.Machine
end

