-- ==== Sys2Proof/Machine/Lifecycle.lean ====
section
/-! DEFINITION. Construction, stop and release (70_reset_and_hazards.md R190 to R194; 60_exceptions.md R175 to
R177). -/

namespace Sys2Proof.Machine

variable {α : Type}

/-- Unit Q after a successful construction (70_reset_and_hazards.md R190, R191, R193). The timestamps are unspecified
(10_state.md R14): the two free values given. -/
def constructQ (phase : BitVec 2) (debounce tsA tsB : Nat) : UnitQ :=
  { count := 0, phase := phase.zeroExtend 8, illegal := 0, stampA := ⟨tsA, false⟩, stampB := ⟨tsB, false⟩
    debounceUs := debounce }

/-- Unit P after a construction (70_reset_and_hazards.md R193): as if by the six setters with `PID_INIT`, then
`PRESET 0, 0`. -/
def constructP (N : NumSys α) (c : PidInit α) (p : UnitP α) : UnitP α :=
  let gains := { p with kp := c.kp, ki := c.ki, kd := c.kd }
  let bounds := setIntLimits N c.intA c.intB (setOutLimits N c.outA c.outB gains)
  pidPreset N (N.zero 2) (N.zero 3) { bounds with kaw := c.kaw }

/-- The value of a timestamp that nothing has written, in `U(W_TS)` (10_state.md R14). -/
def freeTime (p : Params α) (k : Nat) : Nat := Config.freeStamp k % 2 ^ p.wTs

/-- The success path of `BCONSTRUCT` (70_reset_and_hazards.md R190, R194): all elements, the running flag, and the
consumer blocked in its first wait. -/
def constructed (N : NumSys α) (phase : BitVec 2) (s : State α) : State α :=
  raise .constructed (useFree 4
    { s with
      q := constructQ phase s.params.debounceInit (freeTime s.params s.fresh) (freeTime s.params (s.fresh + 1))
      p := constructP N s.params.pidInit s.p
      b := { life := .running, run := true, source := .held, joining := false, consumer := .blocked } })

/-- The failure path of `BCONSTRUCT` (70_reset_and_hazards.md R192): what was acquired is released, and no element
of units Q and P can be observed. -/
def constructFailed (source : Source) (s : State α) : State α :=
  raise .constructFail { s with b := { s.b with life := .failed, source := source } }

/-- A waiting `BRELEASE` whose consumer has exited releases (60_exceptions.md R177). -/
def joinRelease (s : State α) : State α :=
  if s.b.joining = true ∧ s.b.life = .stopped then release s else s

/-! ### The operations, over any `NUM` -/

/-- `BCONSTRUCT` (70_reset_and_hazards.md R190), from `UNBUILT` only (60_exceptions.md R175). The acquisition is
tested before the levels (60_exceptions.md R171). In another state it has no effect and no outcome: the model's choice,
assumption 19. -/
def bconstructOver (N : Nat → NumSys α) (acquireFails : Bool) (lvA lvB : Level) (s : State α) :
    Host.Outcome (State α) Fault Refusal :=
  if s.b.life = .unbuilt then
    if acquireFails then .next (constructFailed s.b.source s)
    else match phaseOf lvA lvB with
      | some phase => .next (constructed (N s.fresh) phase s)
      | none => .next (constructFailed .released s)
  else .next s

/-- `BSTOP` (60_exceptions.md R176): the host drives `B.run` to 0; no effect in a state other than `RUNNING`. -/
def bstopOver (s : State α) : Host.Outcome (State α) Fault Refusal :=
  if s.b.life = .running then .next { s with b := { s.b with run := false } } else .next s

/-- `BRELEASE` (60_exceptions.md R177): releases in `STOPPED`, waits in `RUNNING` for the consumer's exit, and has no
effect in the other states (R175). -/
def breleaseOver (s : State α) : Host.Outcome (State α) Fault Refusal :=
  match s.b.life with
  | .stopped => .next (release s)
  | .running => .next { s with b := { s.b with joining := true } }
  | .unbuilt => .next s
  | .released => .next s
  | .failed => .next s

/-! ### The machine's meanings -/

/-- `BCONSTRUCT` (70_reset_and_hazards.md R190). -/
def execBconstruct (acquireFails : Bool) (lvA lvB : Level) (s : State) : Host.Outcome State Fault Refusal :=
  bconstructOver numSys acquireFails lvA lvB s

/-- `BSTOP` (60_exceptions.md R176). -/
def execBstop (s : State) : Host.Outcome State Fault Refusal := bstopOver s

/-- `BRELEASE` (60_exceptions.md R177). -/
def execBrelease (s : State) : Host.Outcome State Fault Refusal := breleaseOver s

end Sys2Proof.Machine
end

