-- ==== Sys2Proof/Machine/Agents.lean ====
section
/-! DEFINITION. How the agents of 20_memory.md R39 take their events, and how a record reaches the block. The step is
`stepWith` the meaning of each operation. -/

namespace Sys2Proof.Machine

variable {α : Type}

/-- An environment that is silent: no channel is ready and none has an event pending. The levels are the free values
given. -/
def silent (lvA lvB : Level) : Answers := ⟨.none, none, lvA, lvB⟩

/-- The host agent whose `QRESET` is in flight, the first in the order of 20_memory.md R39. -/
def busyHost (s : State α) : Option HostAgent :=
  if s.hosts.foreground.isSome then some .foreground
  else if s.hosts.housekeeping.isSome then some .housekeeping
  else if s.hosts.orchestrator.isSome then some .orchestrator
  else none

/-- One event of the block with no stimulus left: a command in flight is finished first (20_memory.md R50), then a
waiting release, then the consumer takes its turn and times out (70_reset_and_hazards.md R211). The levels it may read
are free values (assumption 8). -/
def quietTurn (s : State α) : State α :=
  match busyHost s with
  | some g => finishReset g s
  | none =>
    consumerTurn (silent (Config.freeLevel s.fresh) (Config.freeLevel (s.fresh + 1))) (useFree 2 (joinRelease s))

/-- A fetch takes the head of the inbox; what the step before put out is gone. -/
def fetched (rest : List Stimulus) (s : State α) : State α := { s with inbox := rest, out := [] }

/-- A host agent's own program order (20_memory.md R46): its command in flight is finished before its next one is
served, whose response goes to its port. -/
def serveHost (g : HostAgent) (s : State α) : State α := servePort g (finishReset g s)

/-- The store of a `QRESET` that stays in flight at this pace, if any. -/
def Pace.left : Pace → Option ResetLeft
  | .whole => none
  | .countFirst => some .illegalLeft
  | .illegalFirst => some .countLeft

/-- Only its first event, for a command of more than one: `QRESET` (40_qdec.md R92). None where the command runs
whole. -/
def firstEvent (g : HostAgent) (i : Instr) (pace : Pace) (s : State α) : Option (State α) :=
  match i, Pace.left pace with
  | .qreset, some left => if observable s then some (beginReset g left s) else none
  | _, _ => none

/-- The command that a host's record stands for: its operation if that is a command (30_encoding.md R66, R67). -/
def commandOf (w : Record) : Option Instr :=
  match decode w with
  | .ok i => if i.kind = .command then some i else none
  | .error _ => none

/-- The operation that an event or lifecycle record of a trace stands for, its must-be-zero bits 0
(30_encoding.md R60, R63). -/
def stimulusOf (p : Params α) (w : Record) : Option Instr :=
  match decode w with
  | .ok i => if i.kind ≠ .command ∧ i.wf p = true then some i else none
  | .error _ => none

/-- A host agent with no command in flight, or the foreground loop. -/
def idleHost (s : State α) : HostAgent :=
  if s.hosts.foreground.isNone then .foreground
  else if s.hosts.housekeeping.isNone then .housekeeping
  else if s.hosts.orchestrator.isNone then .orchestrator
  else .foreground

/-- The stimulus by which a record reaches the block (30_encoding.md R60): a trace's event or lifecycle stimulus, or
a host's command. -/
def stimulusFor (s : State α) (w : Record) : Stimulus :=
  match stimulusOf s.params w with
  | some _ => .environment w
  | none => .command (idleHost s) w .whole

/-- A host's record at the command port (30_encoding.md R62), given the meaning of each operation. -/
def serveCommand (run : Instr → State α → Host.Outcome (State α) Fault Refusal) (g : HostAgent) (w : Record)
    (pace : Pace) (s : State α) : Host.Outcome (State α) Fault Refusal :=
  match commandOf w with
  | none => .next (rejectCommand s)
  | some i =>
    match firstEvent g i pace s with
    | some s' => .next s'
    | none => run i s

/-- An event or lifecycle record of a trace (30_encoding.md R60), given the meaning of each operation. -/
def serveStimulus (run : Instr → State α → Host.Outcome (State α) Fault Refusal) (w : Record) (s : State α) :
    Host.Outcome (State α) Fault Refusal :=
  match stimulusOf s.params w with
  | some i => run i s
  | none => .fault .notAStimulus

/-- One step, given the meaning of each operation: the next stimulus names the agent that moves (20_memory.md R46), and
that agent's event, or its whole operation, is run. -/
def stepWith (run : Instr → State α → Host.Outcome (State α) Fault Refusal) (s : State α) :
    Host.Outcome (State α) Fault Refusal :=
  match s.inbox with
  | [] => .next (quietTurn (fetched [] s))
  | .command g w pace :: rest => serveCommand run g w pace (serveHost g (fetched rest s))
  | .environment w :: rest => serveStimulus run w (fetched rest s)
  | .consumer a :: rest => .next (consumerTurn a (fetched rest s))
  | .resume g :: rest => .next (finishReset g (fetched rest s))
  | .join :: rest => .next (joinRelease (fetched rest s))

end Sys2Proof.Machine
end

