-- ==== Sys2Proof/Machine/Dispatch.lean ====
section
/-! DEFINITION. The meaning of each operation, one arm per constructor (30_encoding.md R66). -/

namespace Sys2Proof.Machine

def exec (i : Instr) (s : State) : Host.Outcome State Fault Refusal :=
  match i with
  | .qrdCount => Sys2Proof.Machine.execQrdCount s
  | .qrdIllegal => Sys2Proof.Machine.execQrdIllegal s
  | .qreset => Sys2Proof.Machine.execQreset s
  | .qsetDebounce us => Sys2Proof.Machine.execQsetDebounce us s
  | .qedge ch ts lvA lvB => Sys2Proof.Machine.execQedge ch ts lvA lvB s
  | .pstep ref meas dt => Sys2Proof.Machine.execPstep ref meas dt s
  | .preset iseed eseed => Sys2Proof.Machine.execPreset iseed eseed s
  | .psetKp v => Sys2Proof.Machine.execPsetKp v s
  | .psetKi v => Sys2Proof.Machine.execPsetKi v s
  | .psetKd v => Sys2Proof.Machine.execPsetKd v s
  | .psetOutLimits a b => Sys2Proof.Machine.execPsetOutLimits a b s
  | .psetIntLimits a b => Sys2Proof.Machine.execPsetIntLimits a b s
  | .psetAwGain v => Sys2Proof.Machine.execPsetAwGain v s
  | .prdInteg => Sys2Proof.Machine.execPrdInteg s
  | .prdLastU => Sys2Proof.Machine.execPrdLastU s
  | .prdLastY => Sys2Proof.Machine.execPrdLastY s
  | .bconstruct acquireFails lvA lvB => Sys2Proof.Machine.execBconstruct acquireFails lvA lvB s
  | .bstop => Sys2Proof.Machine.execBstop s
  | .brelease => Sys2Proof.Machine.execBrelease s

end Sys2Proof.Machine
end

