-- ==== Sys2Proof/Machine/Step.lean ====
section
/-! DEFINITION. One step of the machine, and how a record is placed before it. -/

namespace Sys2Proof.Machine

/-- One step of the machine. -/
def step (s : State) : Host.Outcome State Fault Refusal := stepWith exec s

/-- The record `w` is the next thing that reaches the block. -/
def State.withFetchWord (s : State) (nbits w : Nat) : State :=
  { s with inbox := stimulusFor s (BitVec.ofNat 200 (w % 2 ^ nbits)) :: s.inbox }

end Sys2Proof.Machine
end

