-- ==== Sys2Proof/Machine/AnyNum.lean ====
section
/-! DEFINITION. The machine with the number system as an argument (00_scope.md R7, `NUM`; 41_pid.md R120). The machine of
Machine/Step.lean is the one over `numSys`, binary64. -/

namespace Sys2Proof.Machine

variable {α : Type}

/-- The meaning of each operation over a number system. -/
def execOver (N : Nat → NumSys α) (i : Instr) (s : State α) : Host.Outcome (State α) Fault Refusal :=
  match i with
  | .qrdCount => qrdCountOver s
  | .qrdIllegal => qrdIllegalOver s
  | .qreset => qresetOver s
  | .qsetDebounce us => qsetDebounceOver us s
  | .qedge ch ts lvA lvB => qedgeOver ch ts lvA lvB s
  | .pstep ref meas dt => pstepOver N ref meas dt s
  | .preset iseed eseed => presetOver N iseed eseed s
  | .psetKp v => psetKpOver N v s
  | .psetKi v => psetKiOver N v s
  | .psetKd v => psetKdOver N v s
  | .psetOutLimits a b => psetOutLimitsOver N a b s
  | .psetIntLimits a b => psetIntLimitsOver N a b s
  | .psetAwGain v => psetAwGainOver N v s
  | .prdInteg => prdIntegOver s
  | .prdLastU => prdLastUOver s
  | .prdLastY => prdLastYOver s
  | .bconstruct acquireFails lvA lvB => bconstructOver N acquireFails lvA lvB s
  | .bstop => bstopOver s
  | .brelease => breleaseOver s

/-- One step over a number system. -/
def stepOver (N : Nat → NumSys α) (s : State α) : Host.Outcome (State α) Fault Refusal := stepWith (execOver N) s

/-- The block before construction over a number system, with the default parameters and those that are OPEN. -/
def resetOver (N : Nat → NumSys α) (waitTimeout debounceInit : Nat) (pidInit : PidInit α) : State α :=
  State.unbuilt ((N 0).zero 0) (Params.default waitTimeout debounceInit (N 0).epsDt pidInit)

/-- One step of the machine over the rationals. -/
def exactStep (s : State Rat) : Host.Outcome (State Rat) Fault Refusal := stepOver (fun _ => exact) s

end Sys2Proof.Machine
end

