-- ==== Sys2Proof/Machine/Platform.lean ====
section
/-! DEFINITION. A platform of `N_MOTORS` blocks, which share nothing (00_scope.md R3, R7; 60_exceptions.md R178). -/

namespace Sys2Proof.Machine

/-- `N_MOTORS` blocks, each with its own state and its own parameters (60_exceptions.md R178). -/
abbrev Platform (nMotors : Nat) := Vector State nMotors

/-- The platform before any construction, given each block's parameters. Every block numbers its free values from 0
over the same constants, so blocks with equal histories take equal free values: the model's choice, assumption 20. -/
def platformReset {nMotors : Nat} (params : Vector (Params Num64) nMotors) : Platform nMotors :=
  params.map (State.unbuilt zeroNum)

/-- One step of block `k`. -/
def platformStep {nMotors : Nat} (k : Fin nMotors) (pl : Platform nMotors) :
    Host.Outcome (Platform nMotors) Fault Refusal :=
  match step pl[k] with
  | .next t => .next (pl.set k t)
  | .fault r => .fault r
  | .refused r => .refused r

end Sys2Proof.Machine
end

