-- ==== Sys2Proof/Machine/Text.lean ====
section
/-! DEFINITION. The textual form of a record (30_encoding.md R68): the mnemonic, then the operands separated by
commas, integers in decimal, `NUM` values in decimal. A text is a list of characters. -/

namespace Sys2Proof.Machine

/-- The digits after the point of `r / 2^1074`: each step takes one decimal digit; none is left after 1074. -/
def fractionDigits : Nat → Nat → List Char
  | 0, _ => []
  | fuel + 1, r =>
    if r = 0 then []
    else Nat.digitChar (r * 10 / 2 ^ 1074) :: fractionDigits fuel (r * 10 % 2 ^ 1074)

/-- A `NUM` value in decimal, exactly. -/
def numText (x : Num64) : List Char :=
  let k := (Num64.toInt x).natAbs
  let sign := if Num64.toInt x < 0 then ['-'] else []
  let whole := Nat.toDigits 10 (k / 2 ^ 1074)
  let fraction := fractionDigits 1074 (k % 2 ^ 1074)
  sign ++ whole ++ (if fraction = [] then [] else '.' :: fraction)

/-- A slot that holds a `NUM` operand: the value in decimal, or the pattern where it is no ordered value. -/
def slotText (v : Slot) : List Char :=
  match numOfSlot v with
  | some x => numText x
  | none => ['0', 'x'] ++ Nat.toDigits 16 v.toNat

/-- One level answer: `0`, `1` or `x` (R68). -/
def levelText : Level → Char
  | .low => '0'
  | .high => '1'
  | .fail => 'x'

/-- The name of a channel (R68). -/
def channelText : Channel → List Char
  | .A => ['A']
  | .B => ['B']

/-- The mnemonic (30_encoding.md R66). -/
def mnemonicText : Instr → List Char
  | .qrdCount => "QRD_COUNT".toList
  | .qrdIllegal => "QRD_ILLEGAL".toList
  | .qreset => "QRESET".toList
  | .qsetDebounce _ => "QSET_DEBOUNCE".toList
  | .qedge _ _ _ _ => "QEDGE".toList
  | .pstep _ _ _ => "PSTEP".toList
  | .preset _ _ => "PRESET".toList
  | .psetKp _ => "PSET_KP".toList
  | .psetKi _ => "PSET_KI".toList
  | .psetKd _ => "PSET_KD".toList
  | .psetOutLimits _ _ => "PSET_OUT_LIMITS".toList
  | .psetIntLimits _ _ => "PSET_INT_LIMITS".toList
  | .psetAwGain _ => "PSET_AW_GAIN".toList
  | .prdInteg => "PRD_INTEG".toList
  | .prdLastU => "PRD_LAST_U".toList
  | .prdLastY => "PRD_LAST_Y".toList
  | .bconstruct _ _ _ => "BCONSTRUCT".toList
  | .bstop => "BSTOP".toList
  | .brelease => "BRELEASE".toList

/-- The operands as they are written (R68). -/
def operandTexts : Instr → List (List Char)
  | .qrdCount => []
  | .qrdIllegal => []
  | .qreset => []
  | .qsetDebounce us => [Nat.toDigits 10 us.toNat]
  | .qedge ch ts lvA lvB => [channelText ch, Nat.toDigits 10 ts.toNat, [levelText lvA, levelText lvB]]
  | .pstep ref meas dt => [slotText ref, slotText meas, slotText dt]
  | .preset iseed eseed => [slotText iseed, slotText eseed]
  | .psetKp v => [slotText v]
  | .psetKi v => [slotText v]
  | .psetKd v => [slotText v]
  | .psetOutLimits a b => [slotText a, slotText b]
  | .psetIntLimits a b => [slotText a, slotText b]
  | .psetAwGain v => [slotText v]
  | .prdInteg => []
  | .prdLastU => []
  | .prdLastY => []
  | .bconstruct true _ _ => ["acquire-fail".toList]
  | .bconstruct false lvA lvB => [[levelText lvA, levelText lvB]]
  | .bstop => []
  | .brelease => []

/-- The one line of a record (30_encoding.md R68). -/
def recordText (i : Instr) : List Char :=
  match operandTexts i with
  | [] => mnemonicText i
  | ops => mnemonicText i ++ ' ' :: List.intercalate [',', ' '] ops

end Sys2Proof.Machine
end

