-- ==== Sys2Proof/Safety.lean ====
section
/-! DEFINITION. What counts as a legal state and as a safe step, in the terms the statements use. -/

namespace Sys2Proof.Machine

/-- Bits 7:2 of the phase byte are 0 (10_state.md R12). -/
def State.PhaseByte (s : State) : Prop := s.q.phase.toNat < 4

/-- The parameters are such as 00_scope.md R7 admits, at most 64 bits for what a slot holds. -/
def Params.Admitted {α : Type} (p : Params α) : Prop :=
  32 ≤ p.wCnt ∧ p.wTs ≤ 64 ∧ p.wDb ≤ 64 ∧ 0 < p.waitTimeout ∧ p.debounceInit < 2 ^ p.wDb

/-- `Q.count` is in `S(W_CNT)` and `Q.illegal` in `U(W_ILL)` (10_state.md R11, R13). -/
def State.CountersInRange (s : State) : Prop :=
  -2 ^ (s.params.wCnt - 1) ≤ s.q.count ∧ s.q.count < 2 ^ (s.params.wCnt - 1) ∧ s.q.illegal < 2 ^ s.params.wIll

/-- Each timestamp is in `U(W_TS)` and the interval in `U(W_DB)` (10_state.md R14, R15). -/
def State.TimesInRange (s : State) : Prop :=
  s.q.stampA.ts < 2 ^ s.params.wTs ∧ s.q.stampB.ts < 2 ^ s.params.wTs ∧ s.q.debounceUs < 2 ^ s.params.wDb

/-- Both bound pairs of unit P are in order (10_state.md R25(c)). -/
def State.BoundsOrdered (s : State) : Prop :=
  Num64.toInt s.p.outMin ≤ Num64.toInt s.p.outMax ∧ Num64.toInt s.p.intMin ≤ Num64.toInt s.p.intMax

/-- `EPS_DT > 0` (41_pid.md R120). -/
def State.EpsPositive (s : State) : Prop := 0 < Num64.toInt s.params.epsDt

/-- No host agent has a `QRESET` in flight. -/
def State.HostsIdle (s : State) : Prop := s.hosts = ⟨none, none, none⟩

/-- What each lifecycle state says of the EdgeSource, the consumer and the commands in flight (10_state.md R26;
60_exceptions.md R168, R175 to R177). -/
def State.LifeCoherent (s : State) : Prop :=
  match s.b.life with
  | .unbuilt => s.b.source = .absent ∧ s.b.consumer = .gone ∧ s.b.joining = false ∧ s.HostsIdle
  | .running => s.b.source = .held ∧ s.b.consumer ≠ .gone
  | .stopped => s.b.source = .held ∧ s.b.consumer = .gone
  | .released => s.b.source = .released ∧ s.b.consumer = .gone ∧ s.b.joining = false
  | .failed => s.b.source ≠ .held ∧ s.b.consumer = .gone ∧ s.b.joining = false ∧ s.HostsIdle

/-- What a `QEDGE` in flight holds fits the phase and the parameter (20_memory.md R44; 40_qdec.md R85). -/
def State.StageCoherent (s : State) : EdgeStage → Prop
  | .accepted => True
  | .countLoaded _ delta new => s.params.update = .split ∧ delta = qtab (loadPhase s) new ∧ delta ≠ 0
  | .illegalLoaded _ new => s.params.update = .split ∧ illegalStep (loadPhase s) new = true

/-- A wake visits each channel at most once (40_qdec.md R80(a)), and a `QEDGE` in flight is coherent. -/
def State.WakeCoherent (s : State) : Prop :=
  match s.b.consumer with
  | .gone => True
  | .top => True
  | .blocked => True
  | .servicing rest => rest ≠ [] ∧ rest.Nodup
  | .inEdge rest stage => rest.length ≤ 1 ∧ s.StageCoherent stage

/-- The invariant of the machine. -/
def State.Inv (s : State) : Prop :=
  Params.Admitted s.params ∧ s.CountersInRange ∧ s.TimesInRange ∧ s.PhaseByte ∧ s.BoundsOrdered ∧ s.EpsPositive ∧
    s.LifeCoherent ∧ s.WakeCoherent

/-- A step that does not stop. -/
def State.Steps (s : State) : Prop := ∃ t, step s = .next t

/-- The transitions of `B.life` (60_exceptions.md R175), and staying. -/
def Life.mayBecome : Life → Life → Bool
  | .unbuilt, .unbuilt => true
  | .unbuilt, .running => true
  | .unbuilt, .failed => true
  | .running, .running => true
  | .running, .stopped => true
  | .stopped, .stopped => true
  | .stopped, .released => true
  | .released, .released => true
  | .failed, .failed => true
  | _, _ => false

/-! ### Terms of the statements -/

/-- Where the consumer of a `RUNNING` block, outside a `QEDGE`, reads its next event of channel `ch`: the channels
that this wake has still to visit after it, or none where it looks at `B.run = 0` first (40_qdec.md R80; inside a wake,
assumption 10). -/
def edgeRest (ch : Channel) (s : State) : Option (List Channel) :=
  match s.b.consumer with
  | .gone => none
  | .top => if s.b.run then some [] else none
  | .blocked => some []
  | .servicing rest =>
    match restAfter ch rest with
    | some later => some later
    | none => if s.b.run then some [] else none
  | .inEdge _ _ => none

/-- No `QEDGE` is in flight. -/
def State.NoEdgeInFlight (s : State) : Prop := ∀ rest stage, s.b.consumer ≠ .inEdge rest stage

/-- The event comes less than `debounce_us` after the previous one of its channel (40_qdec.md R82). -/
def tooSoon (ch : Channel) (ts : Slot) (s : State) : Prop :=
  (stampOf ch s).valid = true ∧ (stampOf ch s).ts ≤ edgeTime s.params ts ∧
    edgeTime s.params ts < (stampOf ch s).ts + s.q.debounceUs

/-- The event is its channel's first, or comes at least `debounce_us` after the previous one (40_qdec.md R82). -/
def inTime (ch : Channel) (ts : Slot) (s : State) : Prop :=
  (stampOf ch s).valid = true → (stampOf ch s).ts + s.q.debounceUs ≤ edgeTime s.params ts

/-- The event's timestamp ran backwards (40_qdec.md R82). -/
def ranBackwards (ch : Channel) (ts : Slot) (s : State) : Prop :=
  (stampOf ch s).valid = true ∧ edgeTime s.params ts < (stampOf ch s).ts

/-- What every processed event leaves (40_qdec.md R80, R83): its timestamp, the consumer gone on with the wake, its
outcome put out, one free value used. -/
def afterEdge (ch : Channel) (ts : Slot) (rest : List Channel) (l : Label) (s : State) : State :=
  { storeStamp ch (edgeTime s.params ts) s with
    b := { s.b with consumer := afterChannel rest }
    out := s.out ++ [.outcome l]
    fresh := s.fresh + 1 }

/-- What an event leaves that reached the table lookup with the phase `new` (40_qdec.md R84, R85). -/
def afterTable (ch : Channel) (ts : Slot) (rest : List Channel) (new : BitVec 2) (s : State) : State :=
  let t := afterEdge ch ts rest (tableLabel (loadPhase s) new) s
  { t with
    q := { t.q with
      count := if qtab (loadPhase s) new = 0 then s.q.count
        else wrapCount s.params s.q.count (qtab (loadPhase s) new)
      illegal := if illegalStep (loadPhase s) new then wrapIllegal s.params s.q.illegal else s.q.illegal
      phase := if new = loadPhase s then s.q.phase else new.zeroExtend 8 } }

/-- The value of `i1` of 41_pid.md R121, by whichever of the strategies of R127 to R129 applies. -/
def integratorUpdate (N : NumSys Num64) (p : UnitP Num64) (e u y h i1 : Num64) : Prop :=
  (0 < Num64.toInt p.kaw ∧ ∃ kie excess corr rate inc,
    N.mul 7 p.ki e = some kie ∧ N.sub 8 y u = some excess ∧ N.mul 9 p.kaw excess = some corr ∧
    N.add 10 kie corr = some rate ∧ N.mul 11 rate h = some inc ∧ N.add 12 p.integ inc = some i1) ∨
  (Num64.toInt p.kaw ≤ 0 ∧
    ((Num64.toInt p.outMax ≤ Num64.toInt u ∧ 0 < Num64.toInt e) ∨
      (Num64.toInt u ≤ Num64.toInt p.outMin ∧ Num64.toInt e < 0)) ∧ i1 = p.integ) ∨
  (Num64.toInt p.kaw ≤ 0 ∧
    ¬ ((Num64.toInt p.outMax ≤ Num64.toInt u ∧ 0 < Num64.toInt e) ∨
      (Num64.toInt u ≤ Num64.toInt p.outMin ∧ Num64.toInt e < 0)) ∧
    ∃ kie inc, N.mul 7 p.ki e = some kie ∧ N.mul 11 kie h = some inc ∧ N.add 12 p.integ inc = some i1)

/-- The values of 41_pid.md R121 up to the clamp: step size, error and unclamped command. -/
def commandTerms (N : NumSys Num64) (eps : Num64) (p : UnitP Num64) (r m dt h e u : Num64) : Prop :=
  h = (if Num64.toInt dt ≤ 0 then eps else dt) ∧ N.sub 0 r m = some e ∧
  ∃ prop diff scaled deriv sum,
    N.mul 1 p.kp e = some prop ∧ N.sub 2 e p.prevErr = some diff ∧ N.mul 3 p.kd diff = some scaled ∧
    N.div 4 scaled h = some deriv ∧ N.add 5 prop p.integ = some sum ∧ N.add 6 sum deriv = some u

/-- Two contents of unit P with the same values: they may differ in the signs of zeros only (41_pid.md R122). -/
def sameValues (p p' : UnitP Num64) : Prop :=
  Num64.toInt p.kp = Num64.toInt p'.kp ∧ Num64.toInt p.ki = Num64.toInt p'.ki ∧
  Num64.toInt p.kd = Num64.toInt p'.kd ∧ Num64.toInt p.outMin = Num64.toInt p'.outMin ∧
  Num64.toInt p.outMax = Num64.toInt p'.outMax ∧ Num64.toInt p.intMin = Num64.toInt p'.intMin ∧
  Num64.toInt p.intMax = Num64.toInt p'.intMax ∧ Num64.toInt p.kaw = Num64.toInt p'.kaw ∧
  Num64.toInt p.integ = Num64.toInt p'.integ ∧ Num64.toInt p.prevErr = Num64.toInt p'.prevErr ∧
  Num64.toInt p.lastU = Num64.toInt p'.lastU ∧ Num64.toInt p.lastY = Num64.toInt p'.lastY

/-- A sequence of operations, each run whole; it stops where one stops. -/
def execAll : List Instr → State → Host.Outcome State Fault Refusal
  | [], s => .next s
  | i :: rest, s =>
    match exec i s with
    | .next t => execAll rest t
    | .fault r => .fault r
    | .refused r => .refused r

/-- The timestamps of the four events of one quadrature cycle. -/
structure CycleTimes where
  t1 : Slot
  t2 : Slot
  t3 : Slot
  t4 : Slot

/-- One clean quadrature cycle `01, 11, 10, 00` from phase `00` (40_qdec.md R87(b)). -/
def forwardCycle (c : CycleTimes) : List Instr :=
  [.qedge .B c.t1 .low .high, .qedge .A c.t2 .high .high, .qedge .B c.t3 .high .low, .qedge .A c.t4 .low .low]

/-- The reverse cycle `10, 11, 01, 00` (40_qdec.md R87(b)). -/
def backwardCycle (c : CycleTimes) : List Instr :=
  [.qedge .A c.t1 .high .low, .qedge .B c.t2 .high .high, .qedge .A c.t3 .low .high, .qedge .B c.t4 .low .low]

/-- Each timestamp comes at least `d` after the one before, the first after a valid stored one (40_qdec.md R82). -/
def spaced (d : Nat) : Stamp → List Nat → Prop
  | _, [] => True
  | last, t :: rest => (last.valid = true → last.ts + d ≤ t) ∧ spaced d ⟨t, true⟩ rest

/-- The timestamps of the first and third events of the cycles, in order. -/
def oddTimes (p : Params Num64) (cycles : List CycleTimes) : List Nat :=
  cycles.flatMap fun c => [edgeTime p c.t1, edgeTime p c.t3]

/-- The timestamps of the second and fourth events of the cycles, in order. -/
def evenTimes (p : Params Num64) (cycles : List CycleTimes) : List Nat :=
  cycles.flatMap fun c => [edgeTime p c.t2, edgeTime p c.t4]

/-- The commands of unit P that take an operand (41_pid.md). -/
def numOperands : Instr → List Slot
  | .pstep ref meas dt => [ref, meas, dt]
  | .preset iseed eseed => [iseed, eseed]
  | .psetKp v => [v]
  | .psetKi v => [v]
  | .psetKd v => [v]
  | .psetOutLimits a b => [a, b]
  | .psetIntLimits a b => [a, b]
  | .psetAwGain v => [v]
  | _ => []

/-- The operations of unit P (30_encoding.md R66, `0x20` to `0x2A`). -/
def ofUnitP (i : Instr) : Bool := 0x20 ≤ (opcode i).toNat && (opcode i).toNat ≤ 0x2A

/-- The slots that the format of an operation uses (30_encoding.md R63). -/
def usesA : Instr → Bool
  | .qsetDebounce _ => true
  | .qedge _ _ _ _ => true
  | i => !(numOperands i).isEmpty

/-- The operations whose format uses slot `b` (30_encoding.md R63). -/
def usesB : Instr → Bool
  | .qedge _ _ _ _ => true
  | i => 2 ≤ (numOperands i).length

/-- The operations whose format uses slot `c` (30_encoding.md R63). -/
def usesC : Instr → Bool
  | .qedge _ _ _ _ => true
  | .bconstruct _ _ _ => true
  | i => 3 ≤ (numOperands i).length

end Sys2Proof.Machine
end

