-- ==== Sys2Proof/Certificates/Slice0/Obligations.lean ====
section
/-! DEFINITION. The statements for the provers. Each docstring names the rule of the spec it comes from. -/

open Sys2Proof Sys2Proof.Machine

/-! ### Encoding -/

/-- Decoding the record of an operation gives that operation, for every operation and every operand
(30_encoding.md R60, R63, R64, R66). -/
def Obligations.EncodeThenDecodeGivesTheInstruction : Prop :=
  ∀ i : Instr, decode (encode i) = .ok i

/-- A record that decodes is, on the slots its format uses, the record of its operation
(30_encoding.md R60, R63, R66). -/
def Obligations.DecodedRecordIsItsEncodingOnUsedSlots : Prop :=
  ∀ (w : Record) (i : Instr), decode w = .ok i →
    encode i = Record.pack (Record.op w) (if usesA i then Record.slotA w else 0)
      (if usesB i then Record.slotB w else 0) (if usesC i then Record.slotC w else 0)

/-- A slot that a format does not use is ignored: two records that agree on `op` and on the slots the format uses
decode alike (30_encoding.md R63). -/
def Obligations.UnusedSlotsAreIgnored : Prop :=
  ∀ (w w' : Record) (i : Instr), decode w = .ok i → Record.op w' = Record.op w →
    (usesA i = true → Record.slotA w' = Record.slotA w) → (usesB i = true → Record.slotB w' = Record.slotB w) →
    (usesC i = true → Record.slotC w' = Record.slotC w) → decode w' = .ok i

/-- Records written out in 95_test_vectors.md (ENC) decode to the operations they stand for. -/
def Obligations.RecordsOfTheSpecDecode : Prop :=
  decode 0x01_DEADBEEF00000000_0000000000000001_FFFFFFFFFFFFFFFF#200 = .ok .qrdCount ∧
  decode 0x04_00000000000000C8_0000000000000000_0000000000000000#200 = .ok (.qsetDebounce 200) ∧
  decode 0x10_0000000000000001_00000000000003E8_0000000000000004#200 = .ok (.qedge .B 1000 .low .high) ∧
  decode 0x10_0000000000000000_0000000000000FA0_0000000000000009#200 = .ok (.qedge .A 4000 .high .fail) ∧
  decode 0x20_3FF0000000000000_0000000000000000_3FD0000000000000#200 =
    .ok (.pstep 0x3FF0000000000000 0 0x3FD0000000000000) ∧
  decode 0x21_4008000000000000_BFD0000000000000_0000000000000000#200 =
    .ok (.preset 0x4008000000000000 0xBFD0000000000000) ∧
  decode 0xF0_0000000000000000_0000000000000000_0000000000000009#200 = .ok (.bconstruct false .high .fail) ∧
  decode 0xF1_0000000000000000_0000000000000000_0000000000000000#200 = .ok .bstop

/-- As a command exactly the opcodes 0x01 to 0x04 and 0x20 to 0x2A stand for an operation; any other is answered
`ILLEGAL_CMD` by a block that admits commands, and changes no state (30_encoding.md R67, R62). -/
def Obligations.ReservedOpcodesAreRejected : Prop :=
  ∀ w : Record,
    ((commandOf w).isSome = true ↔
      (1 ≤ (Record.op w).toNat ∧ (Record.op w).toNat ≤ 4) ∨
      (0x20 ≤ (Record.op w).toNat ∧ (Record.op w).toNat ≤ 0x2A)) ∧
    ∀ (s : State) (g : HostAgent) (pace : Pace) (rest : List Stimulus),
      s.inbox = .command g w pace :: rest → inFlight g s = none → observable s = true → commandOf w = none →
      step s = .next { s with inbox := rest, port := g, out := [.response g ⟨.illegalCmd, .int 0⟩] }

/-- Admission of a command, in the order of 30_encoding.md R62, at every pace and after the `QRESET` that its host agent
may have in flight: a block that is not observable answers `NOT_READY` and nothing else happens; one that is answers
`ILLEGAL_CMD` to a record that is no command or has a must-be-zero bit that is 1, with no state change; and an admitted
command that completes is answered `OK`. A `QRESET` at a pace that leaves it in flight completes later
(`QresetIsTwoStores`). That a host agent has one `QRESET` in flight at most is assumption 11; that it is finished and
answered `OK` in a block released meanwhile is assumption 15; that a pace does nothing to other commands is
assumption 16. -/
def Obligations.AdmissionOfCommands : Prop :=
  ∀ (s : State) (g : HostAgent) (w : Record) (pace : Pace) (rest : List Stimulus),
    s.inbox = .command g w pace :: rest →
    let s1 := serveHost g (fetched rest s)
    (observable s = false →
      step s = .next { s1 with out := s1.out ++ [.response g ⟨.notReady, .int 0⟩] }) ∧
    (observable s = true → (∀ i, commandOf w = some i → i.wf s.params = false) →
      step s = .next { s1 with out := s1.out ++ [.response g ⟨.illegalCmd, .int 0⟩] }) ∧
    (∀ (i : Instr) (t : State), observable s = true → commandOf w = some i → i.wf s.params = true →
      (i = .qreset → pace = .whole) → step s = .next t → ∃ v, t.out = s1.out ++ [.response g ⟨.ok, v⟩])

/-- The fields of a response word at every width (30_encoding.md R61, R65): `status` above `val`, which is the count
sign-extended, the illegal count zero-extended, or the pattern of a `NUM`. A response that is not `OK` carries 0, and an
event or lifecycle stimulus is answered by no response. Where a `NUM` sits in a field wider than 64 bits is
assumption 1. -/
def Obligations.ResponsesHaveTheirForm : Prop :=
  (∀ (p : Params Num64) (r : Response Num64),
    (Response.word p r).extractLsb' (valWidth p) 8 =
      (match r.status with | .ok => 0 | .illegalCmd => 1 | .notReady => 2) ∧
    (∀ c : Int, 1 ≤ p.wCnt → -2 ^ (p.wCnt - 1) ≤ c → c < 2 ^ (p.wCnt - 1) → r.val = .int c →
      (Response.word p r).extractLsb' 0 (valWidth p) = (BitVec.ofInt p.wCnt c).signExtend (valWidth p)) ∧
    (∀ n : Nat, n < 2 ^ p.wIll → r.val = .int n →
      (Response.word p r).extractLsb' 0 (valWidth p) = (BitVec.ofNat p.wIll n).zeroExtend (valWidth p)) ∧
    (∀ x : Num64, r.val = .num x →
      (Response.word p r).extractLsb' 0 (valWidth p) = (slotOfNum x).zeroExtend (valWidth p))) ∧
  (∀ s t : State, step s = .next t → ∀ g r, .response g r ∈ t.out → r.status ≠ .ok → r.val = .int 0) ∧
  (∀ (s t : State) (w : Record) (rest : List Stimulus), s.inbox = .environment w :: rest → step s = .next t →
    ∀ g r, .response g r ∉ t.out)

/-- A `NUM` operand and a `NUM` result are the same pattern: reading a result back gives the value, and writing an
ordered operand back gives its slot (30_encoding.md R64, R65). -/
def Obligations.NumPatternsRoundTrip : Prop :=
  (∀ x : Num64, numOfSlot (slotOfNum x) = some x) ∧
  (∀ (v : Slot) (x : Num64), numOfSlot v = some x → slotOfNum x = v)

/-! ### The step -/

/-- A step runs the decoded operation: a command of a host agent, at every pace but for a `QRESET` that stays in flight,
and an event or lifecycle record, after the fetch has taken it from the inbox (30_encoding.md R60; 20_memory.md R46).
What comes before a command is that its host agent finishes its `QRESET` in flight, if any: its own program order
(20_memory.md R46; that a host agent has one at most is assumption 11, that finishing it makes its store and answers
`OK` in a block released meanwhile too is assumption 15, that a pace does nothing to the other commands is
assumption 16). -/
def Obligations.StepRunsTheDecodedOperation : Prop :=
  (∀ (s : State) (g : HostAgent) (w : Record) (pace : Pace) (i : Instr) (rest : List Stimulus),
    s.inbox = .command g w pace :: rest → decode w = .ok i → i.kind = .command →
    (i = .qreset → pace = .whole ∨ observable s = false) →
    step s = exec i (serveHost g (fetched rest s))) ∧
  (∀ (s : State) (g : HostAgent) (rest : List Stimulus),
    (inFlight g s = none → serveHost g (fetched rest s) = { s with inbox := rest, out := [], port := g }) ∧
    (inFlight g s = some .countLeft → serveHost g (fetched rest s) = { s with
      inbox := rest, port := g, out := [.response g ⟨.ok, .int 0⟩]
      q := { s.q with count := 0 }, hosts := (setInFlight g none s).hosts }) ∧
    (inFlight g s = some .illegalLeft → serveHost g (fetched rest s) = { s with
      inbox := rest, port := g, out := [.response g ⟨.ok, .int 0⟩]
      q := { s.q with illegal := 0 }, hosts := (setInFlight g none s).hosts })) ∧
  (∀ (s : State) (w : Record) (i : Instr) (rest : List Stimulus),
    s.inbox = .environment w :: rest → decode w = .ok i → i.kind ≠ .command → i.wf s.params = true →
    step s = exec i { s with inbox := rest, out := [] })

/-- No step, from any state whatever, changes a parameter (00_scope.md R7; the model carries them in the state,
assumption 3). -/
def Obligations.ParametersNeverChange : Prop :=
  ∀ s t : State, step s = .next t → t.params = s.params

/-- Every step keeps the invariant: every element in the range of its width, the phase byte, the order of the bounds,
admitted parameters, `EPS_DT > 0`, and the coherence of the lifecycle with the EdgeSource, the consumer and the commands
in flight (10_state.md R11 to R15, R25(c), R26, R28; 60_exceptions.md R168, R175). -/
def Obligations.EveryStepKeepsTheInvariant : Prop :=
  ∀ s t : State, s.Inv → step s = .next t → t.Inv

/-- The invariant holds at reset (10_state.md R33). The element values there are the model's choice, assumption 4. -/
def Obligations.ResetMeetsTheInvariant : Prop := State.reset.Inv

/-- `B.life` moves only along the transitions of 60_exceptions.md R175: construction out of `UNBUILT`, the consumer's
exit on `B.run = 0`, and release out of `STOPPED`. -/
def Obligations.LifecycleTransitions : Prop :=
  ∀ s t : State, step s = .next t →
    t.b.life = s.b.life ∨
    (s.b.life = .unbuilt ∧ t.b.life = .running ∧ ∃ (lvA lvB : Level) (w : Record) (rest : List Stimulus),
      s.inbox = .environment w :: rest ∧ decode w = .ok (.bconstruct false lvA lvB) ∧ lvA ≠ .fail ∧ lvB ≠ .fail) ∨
    (s.b.life = .unbuilt ∧ t.b.life = .failed ∧ ∃ (f : Bool) (lvA lvB : Level) (w : Record) (rest : List Stimulus),
      s.inbox = .environment w :: rest ∧ decode w = .ok (.bconstruct f lvA lvB) ∧
        (f = true ∨ lvA = .fail ∨ lvB = .fail)) ∨
    (s.b.life = .running ∧ t.b.life = .stopped ∧ s.b.run = false ∧ t.b.consumer = .gone) ∨
    (s.b.life = .stopped ∧ t.b.life = .released ∧ t.b.source = .released)

/-- Once the host has stopped a `RUNNING` block and the environment is silent, the consumer exits within eight steps,
whatever it was in the middle of (60_exceptions.md R176; 70_reset_and_hazards.md R211). That the block's own agents
take turns when no stimulus is left is the model's choice, assumption 8. -/
def Obligations.StoppedConsumerExits : Prop :=
  ∀ s : State, s.Inv → s.inbox = [] → s.b.life = .running → s.b.run = false →
    ∃ t : State, Host.Core.run Sys2Proof.core 8 s = .next t ∧ (t.b.life = .stopped ∨ t.b.life = .released)

/-- The only refusal is that of a value outside the order, by a `P` command with operands; no operation faults
(41_pid.md R122; 60_exceptions.md R170). -/
def Obligations.OnlyUnorderedValuesAreRefused : Prop :=
  (∀ (i : Instr) (s : State) (f : Fault), exec i s ≠ .fault f) ∧
  (∀ (i : Instr) (s : State) (r : Refusal), exec i s = .refused r →
    r = .unorderedNum ∧ numOperands i ≠ [] ∧ observable s = true)

/-- A step faults exactly on a trace word that stands for no event and no lifecycle stimulus. That such a word stops
the model is its own choice, assumption 9. -/
def Obligations.StepFaultsOnlyOnNoStimulus : Prop :=
  ∀ (s : State) (f : Fault), step s = .fault f ↔
    ∃ (w : Record) (rest : List Stimulus), s.inbox = .environment w :: rest ∧ stimulusOf s.params w = none

/-- What a command leaves alone (10_state.md R32, column "written by"; 20_memory.md R45): no command writes the phase,
a timestamp or a block-level element, and every other element is written by its own commands only. -/
def Obligations.CommandsWriteOnlyTheirElements : Prop :=
  ∀ (i : Instr) (s t : State), i.kind = .command → exec i s = .next t →
    (t.q.phase = s.q.phase ∧ t.q.stampA = s.q.stampA ∧ t.q.stampB = s.q.stampB ∧ t.b = s.b ∧ t.hosts = s.hosts ∧
      t.params = s.params ∧ t.inbox = s.inbox ∧ t.port = s.port) ∧
    (i ≠ .qreset → t.q.count = s.q.count ∧ t.q.illegal = s.q.illegal) ∧
    ((∀ us, i ≠ .qsetDebounce us) → t.q.debounceUs = s.q.debounceUs) ∧
    ((∀ v, i ≠ .psetKp v) → t.p.kp = s.p.kp) ∧
    ((∀ v, i ≠ .psetKi v) → t.p.ki = s.p.ki) ∧
    ((∀ v, i ≠ .psetKd v) → t.p.kd = s.p.kd) ∧
    ((∀ a b, i ≠ .psetOutLimits a b) → t.p.outMin = s.p.outMin ∧ t.p.outMax = s.p.outMax) ∧
    ((∀ a b, i ≠ .psetIntLimits a b) → t.p.intMin = s.p.intMin ∧ t.p.intMax = s.p.intMax) ∧
    ((∀ v, i ≠ .psetAwGain v) → t.p.kaw = s.p.kaw) ∧
    ((∀ a b c, i ≠ .pstep a b c) → (∀ a b, i ≠ .preset a b) →
      t.p.integ = s.p.integ ∧ t.p.prevErr = s.p.prevErr ∧ t.p.lastU = s.p.lastU ∧ t.p.lastY = s.p.lastY)

/-- The two units do not touch each other: an operation of unit P runs alike whatever unit Q holds and leaves it
alone, and a command or event of unit Q runs alike whatever unit P holds and leaves it alone (20_memory.md R54;
10_state.md R32). Nor do the blocks of a platform: a step of one block is that block's step, and leaves every other
block alone (00_scope.md R3; 60_exceptions.md R178). That blocks with equal histories take equal free values is
assumption 20, and nothing here rests on it. -/
def Obligations.UnitsDoNotInterfere : Prop :=
  (∀ (i : Instr) (s t : State) (q : UnitQ), ofUnitP i = true → exec i s = .next t →
    t.q = s.q ∧ exec i { s with q := q } = .next { t with q := q }) ∧
  (∀ (i : Instr) (s t : State) (p : UnitP Num64), ofUnitP i = false → i.kind ≠ .lifecycle → exec i s = .next t →
    t.p = s.p ∧ exec i { s with p := p } = .next { t with p := p }) ∧
  (∀ (nMotors : Nat) (k : Fin nMotors) (pl pl' : Platform nMotors), platformStep k pl = .next pl' →
    step pl[k] = .next pl'[k] ∧ ∀ m : Fin nMotors, m ≠ k → pl'[m] = pl[m])

/-! ### Unit Q: commands -/

/-- The read commands answer the whole element, whose word is said in `ResponsesHaveTheirForm`, and change no state; a
block that is not observable answers `NOT_READY` (40_qdec.md R90, R91; 41_pid.md R136, R141, R142). -/
def Obligations.ReadCommandsAnswerAndChangeNothing : Prop :=
  ∀ s : State,
    (observable s = true →
      exec .qrdCount s = .next { s with out := s.out ++ [.response s.port ⟨.ok, .int s.q.count⟩] } ∧
      exec .qrdIllegal s = .next { s with out := s.out ++ [.response s.port ⟨.ok, .int s.q.illegal⟩] } ∧
      exec .prdInteg s = .next { s with out := s.out ++ [.response s.port ⟨.ok, .num s.p.integ⟩] } ∧
      exec .prdLastU s = .next { s with out := s.out ++ [.response s.port ⟨.ok, .num s.p.lastU⟩] } ∧
      exec .prdLastY s = .next { s with out := s.out ++ [.response s.port ⟨.ok, .num s.p.lastY⟩] }) ∧
    (observable s = false → ∀ i ∈ [Instr.qrdCount, .qrdIllegal, .prdInteg, .prdLastU, .prdLastY],
      exec i s = .next { s with out := s.out ++ [.response s.port ⟨.notReady, .int 0⟩] })

/-- `QRESET` with no event of another agent inside zeroes the two counters and nothing else (40_qdec.md R92). -/
def Obligations.QresetZeroesBothCounters : Prop :=
  ∀ s : State, observable s = true →
    exec .qreset s = .next { s with
      q := { s.q with count := 0, illegal := 0 }
      out := s.out ++ [.response s.port ⟨.ok, .int 0⟩] }

/-- `QRESET` is two stores in either order, between which other agents' events may fall: its first event makes one
store and gives no response, its second makes the other and gives it (40_qdec.md R92; 20_memory.md R48(a)).
That the second half holds in a block that has been released meanwhile is the model's choice, assumption 15. -/
def Obligations.QresetIsTwoStores : Prop :=
  (∀ (s : State) (g : HostAgent) (w : Record) (rest : List Stimulus), inFlight g s = none → observable s = true →
    decode w = .ok .qreset →
    (s.inbox = .command g w .countFirst :: rest → ∃ t, step s = .next t ∧ t.q = { s.q with count := 0 } ∧
      t.p = s.p ∧ t.b = s.b ∧ t.out = [] ∧ inFlight g t = some .illegalLeft ∧
      ∀ k, k ≠ g → inFlight k t = inFlight k s) ∧
    (s.inbox = .command g w .illegalFirst :: rest → ∃ t, step s = .next t ∧ t.q = { s.q with illegal := 0 } ∧
      t.p = s.p ∧ t.b = s.b ∧ t.out = [] ∧ inFlight g t = some .countLeft ∧
      ∀ k, k ≠ g → inFlight k t = inFlight k s)) ∧
  (∀ (s : State) (g : HostAgent) (rest : List Stimulus), s.inbox = .resume g :: rest →
    (inFlight g s = some .illegalLeft → ∃ t, step s = .next t ∧ t.q = { s.q with illegal := 0 } ∧ t.p = s.p ∧
      t.b = s.b ∧ t.out = [.response g ⟨.ok, .int 0⟩] ∧ inFlight g t = none) ∧
    (inFlight g s = some .countLeft → ∃ t, step s = .next t ∧ t.q = { s.q with count := 0 } ∧ t.p = s.p ∧
      t.b = s.b ∧ t.out = [.response g ⟨.ok, .int 0⟩] ∧ inFlight g t = none))

/-- `QSET_DEBOUNCE` stores the interval and nothing else, every value of `U(W_DB)` accepted; with a bit of `a[63:W_DB]`
that is 1 it is answered `ILLEGAL_CMD` and changes no state (40_qdec.md R93; 30_encoding.md R64). -/
def Obligations.QsetDebounceStoresTheInterval : Prop :=
  ∀ (s : State) (us : Slot), observable s = true →
    (us.toNat < 2 ^ s.params.wDb → exec (.qsetDebounce us) s = .next { s with
      q := { s.q with debounceUs := us.toNat }
      out := s.out ++ [.response s.port ⟨.ok, .int 0⟩] }) ∧
    (2 ^ s.params.wDb ≤ us.toNat → exec (.qsetDebounce us) s = .next { s with
      out := s.out ++ [.response s.port ⟨.illegalCmd, .int 0⟩] })

/-- An event past its load of `Q.debounce_us` is judged by the old interval: a store that comes after that load
changes nothing of what the event still does, whatever the levels (20_memory.md R55; 40_qdec.md R82). -/
def Obligations.EdgePastItsLoadIgnoresANewInterval : Prop :=
  ∀ (s : State) (d : Nat) (lvA lvB : Level),
    advanceEdge lvA lvB (storeDebounce d s) = storeDebounce d (advanceEdge lvA lvB s)

/-! ### Unit Q: edges -/

/-- The classes of `QTAB` (40_qdec.md R84): +1 on `00→01→11→10→00`, the reverse steps -1, all other pairs 0; both bits
differ exactly where the transition is illegal; the table is antisymmetric. -/
def Obligations.TransitionTableClasses : Prop :=
  (∀ o n : BitVec 2, qtab o n =
    if (o = 0 ∧ n = 1) ∨ (o = 1 ∧ n = 3) ∨ (o = 3 ∧ n = 2) ∨ (o = 2 ∧ n = 0) then 1
    else if (o = 1 ∧ n = 0) ∨ (o = 3 ∧ n = 1) ∨ (o = 2 ∧ n = 3) ∨ (o = 0 ∧ n = 2) then -1 else 0) ∧
  (∀ o n : BitVec 2, illegalStep o n = true ↔ o ^^^ n = 3) ∧
  (∀ o n : BitVec 2, qtab n o = -qtab o n)

/-- The counters wrap: the position counter to the member of `S(W_CNT)` congruent modulo `2^W_CNT`, from each end of the
range to the other; the illegal counter modulo `2^W_ILL` (10_state.md R11, R13; 00_scope.md R8). -/
def Obligations.CountersWrap : Prop :=
  (∀ (p : Params Num64) (v d : Int), 1 ≤ p.wCnt →
    -2 ^ (p.wCnt - 1) ≤ wrapCount p v d ∧ wrapCount p v d < 2 ^ (p.wCnt - 1) ∧
    (2 ^ p.wCnt : Int) ∣ wrapCount p v d - (v + d) ∧
    (v = 2 ^ (p.wCnt - 1) - 1 → d = 1 → wrapCount p v d = -2 ^ (p.wCnt - 1)) ∧
    (v = -2 ^ (p.wCnt - 1) → d = -1 → wrapCount p v d = 2 ^ (p.wCnt - 1) - 1)) ∧
  (∀ (p : Params Num64) (v : Nat), v < 2 ^ p.wIll →
    wrapIllegal p v = if v + 1 = 2 ^ p.wIll then 0 else v + 1)

/-- An event that comes less than `debounce_us` after the previous one of its channel is dropped: its timestamp is
stored and nothing else of unit Q changes (40_qdec.md R82, R83, R87(c); 60_exceptions.md R160). Where a consumer inside a
wake goes on is assumption 10. -/
def Obligations.EdgeTooSoonIsDebounced : Prop :=
  ∀ (ch : Channel) (ts : Slot) (lvA lvB : Level) (rest : List Channel) (s : State),
    s.b.life = .running → edgeRest ch s = some rest → tooSoon ch ts s →
    exec (.qedge ch ts lvA lvB) s = .next (afterEdge ch ts rest .debounced s)

/-- An event in time, one of whose level reads fails, is dropped after its timestamp is stored: no counter and no
phase changes, and the block stays `RUNNING` (40_qdec.md R83, R86). Where a consumer inside a wake goes on is
assumption 10. -/
def Obligations.EdgeWithFailedReadIsDropped : Prop :=
  ∀ (ch : Channel) (ts : Slot) (lvA lvB : Level) (rest : List Channel) (s : State),
    s.b.life = .running → edgeRest ch s = some rest → inTime ch ts s → (lvA = .fail ∨ lvB = .fail) →
    exec (.qedge ch ts lvA lvB) s = .next (afterEdge ch ts rest .readFail s)

/-- An event in time with both levels read makes the table step on the phase `{lvA, lvB}`, under either value of
`QDEC_UPDATE` (40_qdec.md R81, R83 to R85; 20_memory.md R43, R44): the delta of `QTAB` is added, the illegal counter
incremented where both bits differ, the phase the new one. Where a consumer inside a wake goes on is assumption 10. -/
def Obligations.EdgeInTimeMakesTheTableStep : Prop :=
  ∀ (ch : Channel) (ts : Slot) (a b : Bool) (rest : List Channel) (s : State),
    s.b.life = .running → edgeRest ch s = some rest → inTime ch ts s →
    exec (.qedge ch ts (if a then .high else .low) (if b then .high else .low)) s =
      .next (afterTable ch ts rest (BitVec.ofBool a ++ BitVec.ofBool b) s)

/-- An event whose timestamp ran backwards is either rejected or judged as one in time, and its timestamp is stored in
both cases (40_qdec.md R82, R83). Which of the two is a free value, assumption 6. Where a consumer
inside a wake goes on is assumption 10. -/
def Obligations.EdgeRunningBackwardsIsEitherWay : Prop :=
  ∀ (ch : Channel) (ts : Slot) (lvA lvB : Level) (rest : List Channel) (s : State),
    s.b.life = .running → edgeRest ch s = some rest → ranBackwards ch ts s →
    ∃ t, exec (.qedge ch ts lvA lvB) s = .next t ∧
      (t = afterEdge ch ts rest .debounced s ∨
       (phaseOf lvA lvB = none ∧ t = afterEdge ch ts rest .readFail s) ∨
       (∃ new, phaseOf lvA lvB = some new ∧ t = afterTable ch ts rest new s))

/-- The remaining cases of a `QEDGE`: one in flight is brought to its end first; a consumer that looks at `B.run = 0`
before it reads the event exits and the event is not processed; a block that is not `RUNNING` processes no event
(40_qdec.md R80; 60_exceptions.md R172, R176). The level answers of a record that debounce rejects have no effect at all,
be an edge in flight or not (30_encoding.md R63). How a record meets a consumer inside a wake, and that the levels an edge
in flight still reads are free values, is assumption 10. -/
def Obligations.EdgeInTheOtherConsumerStates : Prop :=
  ∀ (ch : Channel) (ts : Slot) (lvA lvB : Level) (s : State),
    (s.b.life = .running → exec (.qedge ch ts lvA lvB) s = exec (.qedge ch ts lvA lvB) (settleEdge s) ∧
      (settleEdge s).NoEdgeInFlight) ∧
    (∀ rest stage, s.b.consumer = .inEdge rest stage → ∃ a b : Level,
      settleEdge s = advanceEdge a b (advanceEdge a b { s with fresh := s.fresh + 2 })) ∧
    (tooSoon ch ts s → ∀ a b : Level, exec (.qedge ch ts lvA lvB) s = exec (.qedge ch ts a b) s) ∧
    (s.b.life = .running → s.NoEdgeInFlight → s.b.consumer ≠ .gone → edgeRest ch s = none →
      s.b.run = false ∧
      exec (.qedge ch ts lvA lvB) s = .next { s with b := { s.b with life := .stopped, consumer := .gone } }) ∧
    (s.b.life ≠ .running → exec (.qedge ch ts lvA lvB) s = .next s)

/-- The invariants of unit Q (10_state.md R16): (a) one processed edge changes the position counter by -1, 0 or +1, and
otherwise only `QRESET` and construction write it; (b) one edge never changes both counters; (c) the phase changes only
in an edge that reaches the table lookup, or at construction; (d) a rejected edge and one whose level read fails change
none of the three. -/
def Obligations.UnitQInvariants : Prop :=
  ∀ (i : Instr) (s t : State), s.NoEdgeInFlight → exec i s = .next t →
    (i.kind = .event → t.q.count = s.q.count ∨ t.q.count = wrapCount s.params s.q.count 1 ∨
      t.q.count = wrapCount s.params s.q.count (-1)) ∧
    (i.kind ≠ .event → t.q.count = s.q.count ∨ (t.q.count = 0 ∧ (i = .qreset ∨ i.kind = .lifecycle))) ∧
    (i.kind = .event → t.q.count = s.q.count ∨ t.q.illegal = s.q.illegal) ∧
    (t.q.phase ≠ s.q.phase → i.kind = .lifecycle ∨
      (i.kind = .event ∧ (t.out = s.out ++ [.outcome .applied] ∨ t.out = s.out ++ [.outcome .illegal]))) ∧
    ((t.out = s.out ++ [.outcome .debounced] ∨ t.out = s.out ++ [.outcome .readFail]) →
      t.q.count = s.q.count ∧ t.q.illegal = s.q.illegal ∧ t.q.phase = s.q.phase)

/-- 4x scaling (40_qdec.md R87(b)): `N` cycles from phase `00` complete, and if debounce accepted every event they add
exactly `4N` to the position counter, `N` reverse cycles subtract `4N`, no read failing. Debounce accepts every event
where each comes at least `debounce_us` after the one before on its channel (R82). -/
def Obligations.CleanCyclesCountFourEach : Prop :=
  ∀ (cycles : List CycleTimes) (s : State),
    s.b.life = .running → s.b.run = true → (s.b.consumer = .top ∨ s.b.consumer = .blocked) → loadPhase s = 0 →
    Params.Admitted s.params → s.CountersInRange →
    (∃ t outs, execAll (cycles.flatMap forwardCycle) s = .next t ∧ t.out = s.out ++ outs ∧
      (.outcome .debounced ∉ outs → t.q.count = wrapCount s.params s.q.count (4 * cycles.length) ∧
        t.q.illegal = s.q.illegal ∧ loadPhase t = 0) ∧
      (spaced s.q.debounceUs s.q.stampB (oddTimes s.params cycles) →
        spaced s.q.debounceUs s.q.stampA (evenTimes s.params cycles) → .outcome .debounced ∉ outs)) ∧
    (∃ t outs, execAll (cycles.flatMap backwardCycle) s = .next t ∧ t.out = s.out ++ outs ∧
      (.outcome .debounced ∉ outs → t.q.count = wrapCount s.params s.q.count (-(4 * cycles.length)) ∧
        t.q.illegal = s.q.illegal ∧ loadPhase t = 0) ∧
      (spaced s.q.debounceUs s.q.stampA (oddTimes s.params cycles) →
        spaced s.q.debounceUs s.q.stampB (evenTimes s.params cycles) → .outcome .debounced ∉ outs))

/-- Run without another agent's event inside, a `QEDGE` does the same under `split` as under `rmw` (20_memory.md R44,
R49). -/
def Obligations.SplitAgreesWithRmwUndisturbed : Prop :=
  ∀ (ch : Channel) (ts : Slot) (lvA lvB : Level) (s t : State), s.NoEdgeInFlight →
    exec (.qedge ch ts lvA lvB) { s with params := { s.params with update := .rmw } } = .next t →
    exec (.qedge ch ts lvA lvB) { s with params := { s.params with update := .split } } =
      .next { t with params := { t.params with update := .split } }

/-- Under `split` the table step is its events (20_memory.md R44; 40_qdec.md R85): the first loads the counter that
changes, and stores nothing; with no change of phase it stores nothing either and the edge ends. A `QRESET` between a
load and its store is overwritten in the counter loaded, which ends at the loaded value plus the delta, and is kept in
the other, to which this edge makes no store. -/
def Obligations.SplitTableStepIsLoadThenStore : Prop :=
  ∀ (s : State) (g : HostAgent) (w : Record) (a : Answers) (rest : List Stimulus) (todo : List Channel),
    s.b.life = .running →
    (∀ new, s.inbox = .consumer a :: rest → s.params.update = .split → s.b.consumer = .inEdge todo .accepted →
      phaseOf a.lvA a.lvB = some new →
      (new = loadPhase s → step s = .next { s with
        inbox := rest, out := [.outcome .noChange], b := { s.b with consumer := afterChannel todo } }) ∧
      (qtab (loadPhase s) new ≠ 0 → step s = .next { s with
        inbox := rest, out := []
        b := { s.b with consumer := .inEdge todo (.countLoaded s.q.count (qtab (loadPhase s) new) new) } }) ∧
      (illegalStep (loadPhase s) new = true → step s = .next { s with
        inbox := rest, out := [], b := { s.b with consumer := .inEdge todo (.illegalLoaded s.q.illegal new) } })) ∧
    (s.inbox = .command g w .whole :: .consumer a :: rest → inFlight g s = none → decode w = .ok .qreset →
      (∀ v delta new, s.b.consumer = .inEdge todo (.countLoaded v delta new) →
        ∃ t : State, Host.Core.run Sys2Proof.core 2 s = .next t ∧ t.q.count = wrapCount s.params v delta ∧
          t.q.illegal = 0 ∧ loadPhase t = new) ∧
      (∀ v new, s.b.consumer = .inEdge todo (.illegalLoaded v new) →
        ∃ t : State, Host.Core.run Sys2Proof.core 2 s = .next t ∧ t.q.illegal = wrapIllegal s.params v ∧
          t.q.count = 0 ∧ loadPhase t = new))

/-- Under `rmw`, a `QRESET` before the consumer's table step keeps that edge, and one after it wipes it, in each
counter (40_qdec.md R92; 20_memory.md R43). -/
def Obligations.RmwResetKeepsLaterEdgesOnly : Prop :=
  ∀ (s : State) (g : HostAgent) (w : Record) (a : Answers) (rest : List Stimulus) (todo : List Channel)
    (new : BitVec 2),
    inFlight g s = none → decode w = .ok .qreset → s.params.update = .rmw → s.b.life = .running →
    s.b.consumer = .inEdge todo .accepted → phaseOf a.lvA a.lvB = some new →
    (s.inbox = .command g w .whole :: .consumer a :: rest →
      ∃ t : State, Host.Core.run Sys2Proof.core 2 s = .next t ∧
        t.q.count = (if qtab (loadPhase s) new = 0 then 0 else wrapCount s.params 0 (qtab (loadPhase s) new)) ∧
        t.q.illegal = (if illegalStep (loadPhase s) new then wrapIllegal s.params 0 else 0)) ∧
    (s.inbox = .consumer a :: .command g w .whole :: rest →
      ∃ t : State, Host.Core.run Sys2Proof.core 2 s = .next t ∧ t.q.count = 0 ∧ t.q.illegal = 0)

/-- The consumer's loop, event by event (40_qdec.md R80, R81): at the top it exits if `B.run = 0` and else waits; a wait
returns the ready channels to visit, and an empty set brings it back to the top with no change of units Q and P; a
channel with no event is skipped; a channel with one starts its `QEDGE`; the levels are the answers to the event that asks
(10_state.md R29), where a failed read drops the edge and others make the table step. -/
def Obligations.ConsumerLoop : Prop :=
  ∀ (s : State) (a : Answers) (rest : List Stimulus), s.inbox = .consumer a :: rest → s.b.life = .running →
    (s.b.consumer = .top → s.b.run = false → step s =
      .next { s with inbox := rest, out := [], b := { s.b with life := .stopped, consumer := .gone } }) ∧
    (s.b.consumer = .top → s.b.run = true → step s =
      .next { s with inbox := rest, out := [], b := { s.b with consumer := .blocked } }) ∧
    (s.b.consumer = .blocked → step s = .next { s with
      inbox := rest, out := [],
      b := { s.b with consumer := match a.ready with
        | .none => .top
        | .onlyA => .servicing [.A]
        | .onlyB => .servicing [.B]
        | .aThenB => .servicing [.A, .B]
        | .bThenA => .servicing [.B, .A] } }) ∧
    (∀ ch todo, s.b.consumer = .servicing (ch :: todo) → a.event = none → step s =
      .next { s with inbox := rest, out := [], b := { s.b with consumer := afterChannel todo } }) ∧
    (∀ ch todo ts, s.b.consumer = .servicing (ch :: todo) → a.event = some ts →
      (tooSoon ch ts s → step s =
        .next (afterEdge ch ts todo .debounced { s with inbox := rest, out := [] })) ∧
      (inTime ch ts s → step s = .next { storeStamp ch (edgeTime s.params ts) s with
        inbox := rest, out := [], fresh := s.fresh + 1, b := { s.b with consumer := .inEdge todo .accepted } })) ∧
    (∀ todo, s.b.consumer = .inEdge todo .accepted →
      (phaseOf a.lvA a.lvB = none → step s = .next { s with
        inbox := rest, out := [.outcome .readFail], b := { s.b with consumer := afterChannel todo } }) ∧
      (∀ new, phaseOf a.lvA a.lvB = some new → s.params.update = .rmw →
        ∃ t, step s = .next t ∧ t.out = [.outcome (tableLabel (loadPhase s) new)] ∧ loadPhase t = new ∧
          t.b = { s.b with consumer := afterChannel todo }))

/-! ### Unit P -/

/-- `sat(v, lo, hi)` for `lo <= hi` is one of its arguments, lies in the bounds, and is `v` itself where `v` lies in
them, the nearest bound where not (41_pid.md R124). -/
def Obligations.SaturationStaysInBounds : Prop :=
  ∀ (k : Nat) (v lo hi : Num64), Num64.toInt lo ≤ Num64.toInt hi →
    (Num64.toInt v < Num64.toInt lo → sat (numSys k) v lo hi = lo) ∧
    (Num64.toInt hi < Num64.toInt v → sat (numSys k) v lo hi = hi) ∧
    (Num64.toInt lo ≤ Num64.toInt v → Num64.toInt v ≤ Num64.toInt hi → sat (numSys k) v lo hi = v) ∧
    Num64.toInt lo ≤ Num64.toInt (sat (numSys k) v lo hi) ∧
    Num64.toInt (sat (numSys k) v lo hi) ≤ Num64.toInt hi

/-- `PSTEP` on ordered operands whose intermediate values are all ordered completes, with the control law's values
line by line; nothing else of the state changes but the response and the free values used (41_pid.md R121, R123,
R125 to R129, R137, R138). -/
def Obligations.PstepComputesTheControlLaw : Prop :=
  ∀ (s : State) (ref meas dt : Slot) (r m t h e u i1 : Num64),
    observable s = true → numOfSlot ref = some r → numOfSlot meas = some m → numOfSlot dt = some t →
    commandTerms (numSys s.fresh) s.params.epsDt s.p r m t h e u →
    integratorUpdate (numSys s.fresh) s.p e u (sat (numSys s.fresh) u s.p.outMin s.p.outMax) h i1 →
    exec (.pstep ref meas dt) s = .next { s with
      p := { s.p with
        integ := sat (numSys s.fresh) i1 s.p.intMin s.p.intMax
        prevErr := e
        lastU := u
        lastY := sat (numSys s.fresh) u s.p.outMin s.p.outMax }
      out := s.out ++ [.response s.port ⟨.ok, .num (sat (numSys s.fresh) u s.p.outMin s.p.outMax)⟩]
      fresh := s.fresh + 13 }

/-- A `P` command with an operand outside the order is refused, and so is a `PSTEP` that computes a value outside it;
an admitted `P` command with ordered operands, other than `PSTEP`, is not (41_pid.md R122). -/
def Obligations.UnorderedValuesAreRefused : Prop :=
  (∀ (i : Instr) (s : State), observable s = true → (∃ v ∈ numOperands i, numOfSlot v = none) →
    exec i s = .refused .unorderedNum) ∧
  (∀ (s : State) (ref meas dt : Slot) (r m t : Num64), observable s = true →
    numOfSlot ref = some r → numOfSlot meas = some m → numOfSlot dt = some t →
    (¬ ∃ h e u i1, commandTerms (numSys s.fresh) s.params.epsDt s.p r m t h e u ∧
      integratorUpdate (numSys s.fresh) s.p e u (sat (numSys s.fresh) u s.p.outMin s.p.outMax) h i1) →
    exec (.pstep ref meas dt) s = .refused .unorderedNum) ∧
  (∀ (i : Instr) (s : State), observable s = true → (∀ a b c, i ≠ .pstep a b c) →
    (∀ v ∈ numOperands i, numOfSlot v ≠ none) → exec i s ≠ .refused .unorderedNum)

/-- The invariants of unit P (10_state.md R25): after `PSTEP` and `PRESET` the integrator lies in its bounds, the
command that `PSTEP` returns is `P.lastY` and lies in the output bounds, and no operation puts a bound pair out of
order. -/
def Obligations.UnitPInvariants : Prop :=
  ∀ (i : Instr) (s t : State), s.BoundsOrdered → exec i s = .next t →
    t.BoundsOrdered ∧
    (observable s = true → ((∃ a b c, i = .pstep a b c) ∨ (∃ a b, i = .preset a b)) →
      Num64.toInt t.p.intMin ≤ Num64.toInt t.p.integ ∧ Num64.toInt t.p.integ ≤ Num64.toInt t.p.intMax) ∧
    (observable s = true → (∃ a b c, i = .pstep a b c) →
      t.out = s.out ++ [.response s.port ⟨.ok, .num t.p.lastY⟩] ∧
      Num64.toInt t.p.outMin ≤ Num64.toInt t.p.lastY ∧ Num64.toInt t.p.lastY ≤ Num64.toInt t.p.outMax)

/-- With no anti-windup gain, a command saturated at a bound and an error that pushes further into it, an integrator
in its bounds is the same after `PSTEP` as before (41_pid.md R129). -/
def Obligations.SaturatedStepSkipsIntegration : Prop :=
  ∀ (s t : State) (ref meas dt : Slot), observable s = true → exec (.pstep ref meas dt) s = .next t →
    Num64.toInt s.p.kaw ≤ 0 →
    ((Num64.toInt s.p.outMax ≤ Num64.toInt t.p.lastU ∧ 0 < Num64.toInt t.p.prevErr) ∨
      (Num64.toInt t.p.lastU ≤ Num64.toInt s.p.outMin ∧ Num64.toInt t.p.prevErr < 0)) →
    Num64.toInt s.p.intMin ≤ Num64.toInt s.p.integ → Num64.toInt s.p.integ ≤ Num64.toInt s.p.intMax →
    t.p.integ = s.p.integ

/-- A `dt` that is not positive is replaced by `EPS_DT`: the step is the one with `dt = EPS_DT` (41_pid.md R123). -/
def Obligations.NonPositiveDtIsReplaced : Prop :=
  ∀ (s : State) (ref meas dt : Slot) (t : Num64), s.EpsPositive → numOfSlot dt = some t → Num64.toInt t ≤ 0 →
    exec (.pstep ref meas dt) s = exec (.pstep ref meas (slotOfNum s.params.epsDt)) s

/-- A negative anti-windup gain behaves exactly as 0: `PSTEP` differs only in the gain that it leaves stored
(41_pid.md R127). -/
def Obligations.NegativeGainActsAsZero : Prop :=
  ∀ (s t : State) (ref meas dt : Slot) (z : Num64), observable s = true → Num64.toInt s.p.kaw ≤ 0 → Num64.toInt z = 0 →
    exec (.pstep ref meas dt) s = .next t →
    exec (.pstep ref meas dt) { s with p := { s.p with kaw := z } } = .next { t with p := { t.p with kaw := z } }

/-- `PRESET` seeds the integrator, clamped, and the previous error, unclamped, and clears the two diagnostics to zero;
nothing else of unit P changes (41_pid.md R130). The signs of the two zeros are free, assumption 5. -/
def Obligations.PresetSeedsUnitP : Prop :=
  ∀ (s : State) (iseed eseed : Slot) (i e : Num64), observable s = true → numOfSlot iseed = some i →
    numOfSlot eseed = some e → ∃ zu zy : Bool, exec (.preset iseed eseed) s = .next { s with
      p := { s.p with
        integ := (if Num64.toInt i < Num64.toInt s.p.intMin then s.p.intMin
          else if Num64.toInt s.p.intMax < Num64.toInt i then s.p.intMax else i)
        prevErr := e
        lastU := ⟨zu, 0⟩
        lastY := ⟨zy, 0⟩ }
      out := s.out ++ [.response s.port ⟨.ok, .int 0⟩]
      fresh := s.fresh + 2 }

/-- Each gain setter writes its own element, any ordered value accepted, and nothing else (41_pid.md R131, R132, R140,
R135). -/
def Obligations.GainSettersWriteTheirElement : Prop :=
  ∀ (s : State) (v : Slot) (x : Num64), observable s = true → numOfSlot v = some x →
    exec (.psetKp v) s = .next { s with
      p := { s.p with kp := x }, out := s.out ++ [.response s.port ⟨.ok, .int 0⟩] } ∧
    exec (.psetKi v) s = .next { s with
      p := { s.p with ki := x }, out := s.out ++ [.response s.port ⟨.ok, .int 0⟩] } ∧
    exec (.psetKd v) s = .next { s with
      p := { s.p with kd := x }, out := s.out ++ [.response s.port ⟨.ok, .int 0⟩] } ∧
    exec (.psetAwGain v) s = .next { s with
      p := { s.p with kaw := x }, out := s.out ++ [.response s.port ⟨.ok, .int 0⟩] }

/-- The bound setters write their pair, swapped if it is in the wrong order, and nothing else: the integrator is not
clamped (41_pid.md R133, R134). -/
def Obligations.BoundSettersSwapTheirPair : Prop :=
  ∀ (s : State) (a b : Slot) (x y : Num64), observable s = true → numOfSlot a = some x → numOfSlot b = some y →
    exec (.psetOutLimits a b) s = .next { s with
      p := { s.p with
        outMin := if Num64.toInt y < Num64.toInt x then y else x
        outMax := if Num64.toInt y < Num64.toInt x then x else y }
      out := s.out ++ [.response s.port ⟨.ok, .int 0⟩] } ∧
    exec (.psetIntLimits a b) s = .next { s with
      p := { s.p with
        intMin := if Num64.toInt y < Num64.toInt x then y else x
        intMax := if Num64.toInt y < Num64.toInt x then x else y }
      out := s.out ++ [.response s.port ⟨.ok, .int 0⟩] }

/-! ### Number systems -/

/-- Each binary64 operation gives the nearest value, and where another value is equally near, the one whose pattern is
even (41_pid.md R120). -/
def Obligations.OperationsRoundToNearestEven : Prop :=
  ∀ (zs : Bool) (x y z w : Num64),
    (Num64.add zs x y = some z →
      |Num64.toInt z - (Num64.toInt x + Num64.toInt y)| ≤ |Num64.toInt w - (Num64.toInt x + Num64.toInt y)| ∧
      (|Num64.toInt z - (Num64.toInt x + Num64.toInt y)| = |Num64.toInt w - (Num64.toInt x + Num64.toInt y)| →
        Num64.toInt w ≠ Num64.toInt z → z.mag.val % 2 = 0)) ∧
    (Num64.sub zs x y = some z →
      |Num64.toInt z - (Num64.toInt x - Num64.toInt y)| ≤ |Num64.toInt w - (Num64.toInt x - Num64.toInt y)| ∧
      (|Num64.toInt z - (Num64.toInt x - Num64.toInt y)| = |Num64.toInt w - (Num64.toInt x - Num64.toInt y)| →
        Num64.toInt w ≠ Num64.toInt z → z.mag.val % 2 = 0)) ∧
    (Num64.mul zs x y = some z →
      |Num64.toInt z * 2 ^ 1074 - Num64.toInt x * Num64.toInt y| ≤
        |Num64.toInt w * 2 ^ 1074 - Num64.toInt x * Num64.toInt y| ∧
      (|Num64.toInt z * 2 ^ 1074 - Num64.toInt x * Num64.toInt y| =
        |Num64.toInt w * 2 ^ 1074 - Num64.toInt x * Num64.toInt y| →
        Num64.toInt w ≠ Num64.toInt z → z.mag.val % 2 = 0)) ∧
    (Num64.div zs x y = some z → Num64.toInt y ≠ 0 ∧
      |Num64.toInt z * Num64.toInt y - Num64.toInt x * 2 ^ 1074| ≤
        |Num64.toInt w * Num64.toInt y - Num64.toInt x * 2 ^ 1074| ∧
      (|Num64.toInt z * Num64.toInt y - Num64.toInt x * 2 ^ 1074| =
        |Num64.toInt w * Num64.toInt y - Num64.toInt x * 2 ^ 1074| →
        Num64.toInt w ≠ Num64.toInt z → z.mag.val % 2 = 0))

/-- A binary64 operation has a value exactly where the magnitude of its exact result, in units of 2^-1074, stays below
half a last place beyond the largest value; a division moreover only for a divisor that is not zero (41_pid.md R120,
R122). -/
def Obligations.OperationsOverflowAtTheBinary64Bound : Prop :=
  ∀ (zs : Bool) (x y : Num64),
    (Num64.add zs x y = none ↔ ((2 ^ 54 - 1) * 2 ^ 2044 : Int) ≤ |Num64.toInt x + Num64.toInt y|) ∧
    (Num64.sub zs x y = none ↔ ((2 ^ 54 - 1) * 2 ^ 2044 : Int) ≤ |Num64.toInt x - Num64.toInt y|) ∧
    (Num64.mul zs x y = none ↔ ((2 ^ 54 - 1) * 2 ^ 2044 * 2 ^ 1074 : Int) ≤ |Num64.toInt x * Num64.toInt y|) ∧
    (Num64.div zs x y = none ↔ Num64.toInt y = 0 ∨
      ((2 ^ 54 - 1) * 2 ^ 2044 : Int) * |Num64.toInt y| ≤ |Num64.toInt x| * 2 ^ 1074)

/-- `EPS_DT` at its default: positive under both instances, 1/1000000 under the exact one, and under binary64 the value
nearest 10^-6 (41_pid.md R120; 00_scope.md R7). -/
def Obligations.DefaultEpsIsNearestOneMillionth : Prop :=
  (exact.epsDt = 1 / 1000000 ∧ 0 < exact.epsDt) ∧
  (∀ k, (numSys k).epsDt = Config.epsDt) ∧ 0 < Num64.toInt Config.epsDt ∧
  ∀ w : Num64, |Num64.toInt Config.epsDt * 10 ^ 6 - 2 ^ 1074| ≤ |Num64.toInt w * 10 ^ 6 - 2 ^ 1074|

/-- The sign of a zero reaches no result other than as the sign of a zero: steps that differ only in the signs of
zeros, of the operands, of the state or of what the operations produce, agree in all values, and are refused together
(41_pid.md R122). -/
def Obligations.ZeroSignsDoNotMatter : Prop :=
  ∀ (z z' : Nat → Bool) (eps : Num64) (p p' : UnitP Num64) (r r' m m' t t' : Num64),
    sameValues p p' → Num64.toInt r = Num64.toInt r' → Num64.toInt m = Num64.toInt m' →
    Num64.toInt t = Num64.toInt t' →
    (∀ n, pidStep (binary64 z) eps p r m t = some n →
      ∃ n', pidStep (binary64 z') eps p' r' m' t' = some n' ∧ sameValues n n') ∧
    (pidStep (binary64 z) eps p r m t = none → pidStep (binary64 z') eps p' r' m' t' = none)

/-- Under the exact instance a step cannot fail, whatever its operands, for a positive `EPS_DT`, and it follows the
formulas: error, unclamped and clamped command, and the integrator by either strategy (41_pid.md R120 to R129, R137,
R138; 60_exceptions.md R162). The machine over the rationals answers that step for every admitted `PSTEP` whose slots
hold values (how a rational sits in a slot is assumption 2). -/
def Obligations.ExactStepNeverFails : Prop :=
  (∀ (eps : Rat) (p : UnitP Rat) (ref meas dt : Rat), 0 < eps →
    let h := if dt ≤ 0 then eps else dt
    let e := ref - meas
    let u := p.kp * e + p.integ + p.kd * (e - p.prevErr) / h
    let y := sat exact u p.outMin p.outMax
    pidStep exact eps p ref meas dt = some { p with
      prevErr := e
      lastU := u
      lastY := y
      integ := sat exact
        (if 0 < p.kaw then p.integ + (p.ki * e + p.kaw * (y - u)) * h
          else if (p.outMax ≤ u ∧ 0 < e) ∨ (u ≤ p.outMin ∧ e < 0) then p.integ
          else p.integ + p.ki * e * h) p.intMin p.intMax }) ∧
  (∀ (s : State Rat) (ref meas dt : Slot) (r m t : Rat), observable s = true → 0 < s.params.epsDt →
    exact.ofSlot ref = some r → exact.ofSlot meas = some m → exact.ofSlot dt = some t →
    ∃ (p' : UnitP Rat), pidStep exact s.params.epsDt s.p r m t = some p' ∧
      execOver (fun _ => exact) (.pstep ref meas dt) s = .next { s with
        p := p', out := s.out ++ [.response s.port ⟨.ok, .num p'.lastY⟩], fresh := s.fresh + 13 })

/-- Back-calculation is a contraction (41_pid.md R128): under the exact instance the integrator before its final clamp,
`integ * (1 - kaw*h) + (ki*e + kaw*(y - prop - deriv)) * h`, lies from the value at which `u = y + ki*e/kaw` at
`1 - kaw*h` times the distance of the old integrator, hence nearer to it where `kaw*h < 2`. -/
def Obligations.ExactBackCalculationContracts : Prop :=
  ∀ (eps : Rat) (p p' : UnitP Rat) (ref meas dt : Rat), 0 < eps → 0 < p.kaw →
    pidStep exact eps p ref meas dt = some p' →
    let h := if dt ≤ 0 then eps else dt
    let e := ref - meas
    let prop := p.kp * e
    let deriv := p.kd * (e - p.prevErr) / h
    let i1 := p.integ * (1 - p.kaw * h) + (p.ki * e + p.kaw * (p'.lastY - prop - deriv)) * h
    let goal := p'.lastY + p.ki * e / p.kaw - prop - deriv
    p'.integ = sat exact i1 p.intMin p.intMax ∧
    i1 - goal = (1 - p.kaw * h) * (p.integ - goal) ∧
    (p.kaw * h < 2 → p.integ ≠ goal → |i1 - goal| < |p.integ - goal|)

/-! ### Lifecycle -/

/-- A successful construction (70_reset_and_hazards.md R190, R191, R193, R194): the phase is the pair of initial levels,
the counters 0, the timestamps invalid, the interval and unit P from the parameters as if by the setters and
`PRESET 0, 0`, `B.run = 1`, and the consumer blocked in its first wait. The timestamps' values and the signs of the
zeros are free, assumptions 5 and 7. -/
def Obligations.ConstructionInitialises : Prop :=
  ∀ (s : State) (a b : Bool), s.b.life = .unbuilt →
    ∃ (tsA tsB : Nat) (z0 zi zu zy : Bool) (t : State),
      exec (.bconstruct false (if a then .high else .low) (if b then .high else .low)) s = .next t ∧
      t.q = { count := 0, phase := (BitVec.ofBool a ++ BitVec.ofBool b).zeroExtend 8, illegal := 0,
              stampA := ⟨tsA, false⟩, stampB := ⟨tsB, false⟩, debounceUs := s.params.debounceInit } ∧
      (let c := s.params.pidInit
       let lo := if Num64.toInt c.intB < Num64.toInt c.intA then c.intB else c.intA
       let hi := if Num64.toInt c.intB < Num64.toInt c.intA then c.intA else c.intB
       t.p = { kp := c.kp, ki := c.ki, kd := c.kd,
               outMin := if Num64.toInt c.outB < Num64.toInt c.outA then c.outB else c.outA,
               outMax := if Num64.toInt c.outB < Num64.toInt c.outA then c.outA else c.outB,
               intMin := lo, intMax := hi, kaw := c.kaw,
               integ := if 0 < Num64.toInt lo then lo else if Num64.toInt hi < 0 then hi else ⟨zi, 0⟩,
               prevErr := ⟨z0, 0⟩, lastU := ⟨zu, 0⟩, lastY := ⟨zy, 0⟩ }) ∧
      t.b = { life := .running, run := true, source := .held, joining := false, consumer := .blocked } ∧
      t.out = s.out ++ [.outcome .constructed] ∧ t.hosts = s.hosts ∧ t.params = s.params ∧ t.inbox = s.inbox ∧
      t.port = s.port

/-- A failed construction (70_reset_and_hazards.md R192; 60_exceptions.md R168, R171(e)): the block is `FAILED`, what
was acquired is released, no element of units Q and P changes, and no consumer starts. -/
def Obligations.ConstructionFailure : Prop :=
  ∀ (s : State) (f : Bool) (lvA lvB : Level), s.b.life = .unbuilt → (f = true ∨ lvA = .fail ∨ lvB = .fail) →
    exec (.bconstruct f lvA lvB) s = .next { s with
      b := { s.b with life := .failed, source := if f then s.b.source else .released }
      out := s.out ++ [.outcome .constructFail] }

/-- Construction happens once: in a block that is not `UNBUILT`, `BCONSTRUCT` has no effect (60_exceptions.md R175). That
it has no outcome either is assumption 19. -/
def Obligations.ConstructionHappensOnce : Prop :=
  ∀ (s : State) (f : Bool) (lvA lvB : Level), s.b.life ≠ .unbuilt → exec (.bconstruct f lvA lvB) s = .next s

/-- `BSTOP` drives `B.run` to 0 and changes nothing else at once; in a state other than `RUNNING` it has no effect
(60_exceptions.md R176). -/
def Obligations.StopClearsTheRunningFlag : Prop :=
  ∀ s : State,
    (s.b.life = .running → exec .bstop s = .next { s with b := { s.b with run := false } }) ∧
    (s.b.life ≠ .running → exec .bstop s = .next s)

/-- A consumer that has exited takes no further step, ever: its turns do nothing, and no later step brings the block
back to `RUNNING` (60_exceptions.md R176, R175). -/
def Obligations.ExitedConsumerNeverReturns : Prop :=
  (∀ (s : State) (a : Answers) (rest : List Stimulus), s.inbox = .consumer a :: rest → s.b.life ≠ .running →
    step s = .next { s with inbox := rest, out := [] }) ∧
  (∀ (n : Nat) (s t : State), s.b.life = .stopped → Host.Core.run Sys2Proof.core n s = .next t →
    t.b.life = .stopped ∨ t.b.life = .released)

/-- `BRELEASE` releases in `STOPPED`; in `RUNNING` it waits, and releases when the consumer has exited; in the other
states it has no effect. After a release every command is answered `NOT_READY` (60_exceptions.md R177, R175).
That the wait is a flag which a later join looks at, and that the other states are left alone, is assumption 15. -/
def Obligations.ReleaseFollowsTheConsumersExit : Prop :=
  ∀ s : State,
    (s.b.life = .stopped → exec .brelease s = .next { s with
      b := { s.b with life := .released, source := .released, joining := false } }) ∧
    (s.b.life = .running → exec .brelease s = .next { s with b := { s.b with joining := true } }) ∧
    ((s.b.life = .unbuilt ∨ s.b.life = .failed ∨ s.b.life = .released) → exec .brelease s = .next s) ∧
    (∀ rest, s.inbox = .join :: rest → s.b.joining = true → s.b.life = .stopped → step s = .next { s with
      inbox := rest, out := [],
      b := { s.b with life := .released, source := .released, joining := false } }) ∧
    (∀ rest, s.inbox = .join :: rest → s.b.life = .running → step s = .next { s with inbox := rest, out := [] }) ∧
    (∀ i : Instr, s.b.life = .released → i.kind = .command →
      exec i s = .next { s with out := s.out ++ [.response s.port ⟨.notReady, .int 0⟩] })

/-- The pseudo-operations do what their expansions say: `PSET_GAINS` sets the three gains, and `QTIMEOUT` expands to
nothing (30_encoding.md R69). -/
def Obligations.PseudoOperationsExpand : Prop :=
  (∀ (s : State) (kp ki kd : Slot) (x y z : Num64), observable s = true → numOfSlot kp = some x →
    numOfSlot ki = some y → numOfSlot kd = some z →
    ∃ t, execAll (Pseudo.expand (.psetGains kp ki kd)) s = .next t ∧ t.q = s.q ∧
      t.p = { s.p with kp := x, ki := y, kd := z }) ∧
  (∀ s : State, execAll (Pseudo.expand .qtimeout) s = .next s)

/-- One wake with both channels ready, in either order of the visits, taken event by event under `rmw` with no other
agent between, ends as the two `QEDGE` records of `QWAKE` in that order (30_encoding.md R69; 40_qdec.md R80). With
`B.run = 0` the records do not stand for the one wake, assumption 10. -/
def Obligations.WakeIsItsTwoEdges : Prop :=
  ∀ (s t : State) (first : Channel) (evA evB : EdgeOperands) (a1 a2 a3 a4 a5 : Answers) (rest : List Stimulus),
    s.b.life = .running → s.b.run = true → s.b.consumer = .blocked → s.params.update = .rmw →
    inTime .A evA.ts s → inTime .B evB.ts s →
    s.inbox = [.consumer a1, .consumer a2, .consumer a3, .consumer a4, .consumer a5] ++ rest →
    (match first with
      | .A => a1.ready = .aThenB ∧ a2.event = some evA.ts ∧ a3.lvA = evA.lvA ∧ a3.lvB = evA.lvB ∧
          a4.event = some evB.ts ∧ a5.lvA = evB.lvA ∧ a5.lvB = evB.lvB
      | .B => a1.ready = .bThenA ∧ a2.event = some evB.ts ∧ a3.lvA = evB.lvA ∧ a3.lvB = evB.lvB ∧
          a4.event = some evA.ts ∧ a5.lvA = evA.lvA ∧ a5.lvB = evA.lvB) →
    Host.Core.run Sys2Proof.core 5 s = .next t →
    ∃ t', execAll (Pseudo.expand (.qwake first evA evB)) { s with inbox := rest } = .next t' ∧
      t'.q = t.q ∧ t'.b = t.b ∧ t.inbox = rest
end

