-- ==== Sys2Proof/Laws/State.lean ====
section
/-! SUPPORT. One lemma for each field of the state under each update of Machine/Ops.lean and of the fetch: what it
becomes, or that it stays. -/

namespace Sys2Proof.Machine

variable {α : Type} (s : State α)

@[simp] theorem emit_q (o : Output α) : (emit o s).q = s.q := rfl
@[simp] theorem emit_p (o : Output α) : (emit o s).p = s.p := rfl
@[simp] theorem emit_b (o : Output α) : (emit o s).b = s.b := rfl
@[simp] theorem emit_hosts (o : Output α) : (emit o s).hosts = s.hosts := rfl
@[simp] theorem emit_params (o : Output α) : (emit o s).params = s.params := rfl
@[simp] theorem emit_inbox (o : Output α) : (emit o s).inbox = s.inbox := rfl
@[simp] theorem emit_out (o : Output α) : (emit o s).out = s.out ++ [o] := rfl
@[simp] theorem emit_port (o : Output α) : (emit o s).port = s.port := rfl
@[simp] theorem emit_fresh (o : Output α) : (emit o s).fresh = s.fresh := rfl

@[simp] theorem raise_q (l : Label) : (raise l s).q = s.q := rfl
@[simp] theorem raise_p (l : Label) : (raise l s).p = s.p := rfl
@[simp] theorem raise_b (l : Label) : (raise l s).b = s.b := rfl
@[simp] theorem raise_hosts (l : Label) : (raise l s).hosts = s.hosts := rfl
@[simp] theorem raise_params (l : Label) : (raise l s).params = s.params := rfl
@[simp] theorem raise_inbox (l : Label) : (raise l s).inbox = s.inbox := rfl
@[simp] theorem raise_out (l : Label) : (raise l s).out = s.out ++ [.outcome l] := rfl
@[simp] theorem raise_port (l : Label) : (raise l s).port = s.port := rfl
@[simp] theorem raise_fresh (l : Label) : (raise l s).fresh = s.fresh := rfl

@[simp] theorem respond_q (st : Status) (v : Val α) : (respond st v s).q = s.q := rfl
@[simp] theorem respond_p (st : Status) (v : Val α) : (respond st v s).p = s.p := rfl
@[simp] theorem respond_b (st : Status) (v : Val α) : (respond st v s).b = s.b := rfl
@[simp] theorem respond_hosts (st : Status) (v : Val α) : (respond st v s).hosts = s.hosts := rfl
@[simp] theorem respond_params (st : Status) (v : Val α) : (respond st v s).params = s.params := rfl
@[simp] theorem respond_inbox (st : Status) (v : Val α) : (respond st v s).inbox = s.inbox := rfl
@[simp] theorem respond_out (st : Status) (v : Val α) : (respond st v s).out = s.out ++ [.response s.port ⟨st, v⟩] := rfl
@[simp] theorem respond_port (st : Status) (v : Val α) : (respond st v s).port = s.port := rfl
@[simp] theorem respond_fresh (st : Status) (v : Val α) : (respond st v s).fresh = s.fresh := rfl

@[simp] theorem respondOk_q (v : Val α) : (respondOk v s).q = s.q := rfl
@[simp] theorem respondOk_p (v : Val α) : (respondOk v s).p = s.p := rfl
@[simp] theorem respondOk_b (v : Val α) : (respondOk v s).b = s.b := rfl
@[simp] theorem respondOk_hosts (v : Val α) : (respondOk v s).hosts = s.hosts := rfl
@[simp] theorem respondOk_params (v : Val α) : (respondOk v s).params = s.params := rfl
@[simp] theorem respondOk_inbox (v : Val α) : (respondOk v s).inbox = s.inbox := rfl
@[simp] theorem respondOk_out (v : Val α) : (respondOk v s).out = s.out ++ [.response s.port ⟨.ok, v⟩] := rfl
@[simp] theorem respondOk_port (v : Val α) : (respondOk v s).port = s.port := rfl
@[simp] theorem respondOk_fresh (v : Val α) : (respondOk v s).fresh = s.fresh := rfl

@[simp] theorem useFree_q (n : Nat) : (useFree n s).q = s.q := rfl
@[simp] theorem useFree_p (n : Nat) : (useFree n s).p = s.p := rfl
@[simp] theorem useFree_b (n : Nat) : (useFree n s).b = s.b := rfl
@[simp] theorem useFree_hosts (n : Nat) : (useFree n s).hosts = s.hosts := rfl
@[simp] theorem useFree_params (n : Nat) : (useFree n s).params = s.params := rfl
@[simp] theorem useFree_inbox (n : Nat) : (useFree n s).inbox = s.inbox := rfl
@[simp] theorem useFree_out (n : Nat) : (useFree n s).out = s.out := rfl
@[simp] theorem useFree_port (n : Nat) : (useFree n s).port = s.port := rfl
@[simp] theorem useFree_fresh (n : Nat) : (useFree n s).fresh = s.fresh + n := rfl

@[simp] theorem storeCount_q (v : Int) : (storeCount v s).q = { s.q with count := v } := rfl
@[simp] theorem storeCount_p (v : Int) : (storeCount v s).p = s.p := rfl
@[simp] theorem storeCount_b (v : Int) : (storeCount v s).b = s.b := rfl
@[simp] theorem storeCount_hosts (v : Int) : (storeCount v s).hosts = s.hosts := rfl
@[simp] theorem storeCount_params (v : Int) : (storeCount v s).params = s.params := rfl
@[simp] theorem storeCount_inbox (v : Int) : (storeCount v s).inbox = s.inbox := rfl
@[simp] theorem storeCount_out (v : Int) : (storeCount v s).out = s.out := rfl
@[simp] theorem storeCount_port (v : Int) : (storeCount v s).port = s.port := rfl
@[simp] theorem storeCount_fresh (v : Int) : (storeCount v s).fresh = s.fresh := rfl

@[simp] theorem storeIllegal_q (v : Nat) : (storeIllegal v s).q = { s.q with illegal := v } := rfl
@[simp] theorem storeIllegal_p (v : Nat) : (storeIllegal v s).p = s.p := rfl
@[simp] theorem storeIllegal_b (v : Nat) : (storeIllegal v s).b = s.b := rfl
@[simp] theorem storeIllegal_hosts (v : Nat) : (storeIllegal v s).hosts = s.hosts := rfl
@[simp] theorem storeIllegal_params (v : Nat) : (storeIllegal v s).params = s.params := rfl
@[simp] theorem storeIllegal_inbox (v : Nat) : (storeIllegal v s).inbox = s.inbox := rfl
@[simp] theorem storeIllegal_out (v : Nat) : (storeIllegal v s).out = s.out := rfl
@[simp] theorem storeIllegal_port (v : Nat) : (storeIllegal v s).port = s.port := rfl
@[simp] theorem storeIllegal_fresh (v : Nat) : (storeIllegal v s).fresh = s.fresh := rfl

@[simp] theorem storePhase_q (v : BitVec 2) : (storePhase v s).q = { s.q with phase := v.zeroExtend 8 } := rfl
@[simp] theorem storePhase_p (v : BitVec 2) : (storePhase v s).p = s.p := rfl
@[simp] theorem storePhase_b (v : BitVec 2) : (storePhase v s).b = s.b := rfl
@[simp] theorem storePhase_hosts (v : BitVec 2) : (storePhase v s).hosts = s.hosts := rfl
@[simp] theorem storePhase_params (v : BitVec 2) : (storePhase v s).params = s.params := rfl
@[simp] theorem storePhase_inbox (v : BitVec 2) : (storePhase v s).inbox = s.inbox := rfl
@[simp] theorem storePhase_out (v : BitVec 2) : (storePhase v s).out = s.out := rfl
@[simp] theorem storePhase_port (v : BitVec 2) : (storePhase v s).port = s.port := rfl
@[simp] theorem storePhase_fresh (v : BitVec 2) : (storePhase v s).fresh = s.fresh := rfl

@[simp] theorem storeDebounce_q (v : Nat) : (storeDebounce v s).q = { s.q with debounceUs := v } := rfl
@[simp] theorem storeDebounce_p (v : Nat) : (storeDebounce v s).p = s.p := rfl
@[simp] theorem storeDebounce_b (v : Nat) : (storeDebounce v s).b = s.b := rfl
@[simp] theorem storeDebounce_hosts (v : Nat) : (storeDebounce v s).hosts = s.hosts := rfl
@[simp] theorem storeDebounce_params (v : Nat) : (storeDebounce v s).params = s.params := rfl
@[simp] theorem storeDebounce_inbox (v : Nat) : (storeDebounce v s).inbox = s.inbox := rfl
@[simp] theorem storeDebounce_out (v : Nat) : (storeDebounce v s).out = s.out := rfl
@[simp] theorem storeDebounce_port (v : Nat) : (storeDebounce v s).port = s.port := rfl
@[simp] theorem storeDebounce_fresh (v : Nat) : (storeDebounce v s).fresh = s.fresh := rfl

@[simp] theorem addCount_q (d : Int) : (addCount d s).q = { s.q with count := wrapCount s.params s.q.count d } := rfl
@[simp] theorem addCount_p (d : Int) : (addCount d s).p = s.p := rfl
@[simp] theorem addCount_b (d : Int) : (addCount d s).b = s.b := rfl
@[simp] theorem addCount_hosts (d : Int) : (addCount d s).hosts = s.hosts := rfl
@[simp] theorem addCount_params (d : Int) : (addCount d s).params = s.params := rfl
@[simp] theorem addCount_inbox (d : Int) : (addCount d s).inbox = s.inbox := rfl
@[simp] theorem addCount_out (d : Int) : (addCount d s).out = s.out := rfl
@[simp] theorem addCount_port (d : Int) : (addCount d s).port = s.port := rfl
@[simp] theorem addCount_fresh (d : Int) : (addCount d s).fresh = s.fresh := rfl

@[simp] theorem addIllegal_q : (addIllegal s).q = { s.q with illegal := wrapIllegal s.params s.q.illegal } := rfl
@[simp] theorem addIllegal_p : (addIllegal s).p = s.p := rfl
@[simp] theorem addIllegal_b : (addIllegal s).b = s.b := rfl
@[simp] theorem addIllegal_hosts : (addIllegal s).hosts = s.hosts := rfl
@[simp] theorem addIllegal_params : (addIllegal s).params = s.params := rfl
@[simp] theorem addIllegal_inbox : (addIllegal s).inbox = s.inbox := rfl
@[simp] theorem addIllegal_out : (addIllegal s).out = s.out := rfl
@[simp] theorem addIllegal_port : (addIllegal s).port = s.port := rfl
@[simp] theorem addIllegal_fresh : (addIllegal s).fresh = s.fresh := rfl

@[simp] theorem storeStamp_p (ch : Channel) (ts : Nat) : (storeStamp ch ts s).p = s.p := by cases ch <;> rfl
@[simp] theorem storeStamp_b (ch : Channel) (ts : Nat) : (storeStamp ch ts s).b = s.b := by cases ch <;> rfl
@[simp] theorem storeStamp_hosts (ch : Channel) (ts : Nat) : (storeStamp ch ts s).hosts = s.hosts := by cases ch <;> rfl
@[simp] theorem storeStamp_params (ch : Channel) (ts : Nat) : (storeStamp ch ts s).params = s.params := by cases ch <;> rfl
@[simp] theorem storeStamp_inbox (ch : Channel) (ts : Nat) : (storeStamp ch ts s).inbox = s.inbox := by cases ch <;> rfl
@[simp] theorem storeStamp_out (ch : Channel) (ts : Nat) : (storeStamp ch ts s).out = s.out := by cases ch <;> rfl
@[simp] theorem storeStamp_port (ch : Channel) (ts : Nat) : (storeStamp ch ts s).port = s.port := by cases ch <;> rfl
@[simp] theorem storeStamp_fresh (ch : Channel) (ts : Nat) : (storeStamp ch ts s).fresh = s.fresh := by cases ch <;> rfl

@[simp] theorem setConsumer_q (c : Consumer) : (setConsumer c s).q = s.q := rfl
@[simp] theorem setConsumer_p (c : Consumer) : (setConsumer c s).p = s.p := rfl
@[simp] theorem setConsumer_b (c : Consumer) : (setConsumer c s).b = { s.b with consumer := c } := rfl
@[simp] theorem setConsumer_hosts (c : Consumer) : (setConsumer c s).hosts = s.hosts := rfl
@[simp] theorem setConsumer_params (c : Consumer) : (setConsumer c s).params = s.params := rfl
@[simp] theorem setConsumer_inbox (c : Consumer) : (setConsumer c s).inbox = s.inbox := rfl
@[simp] theorem setConsumer_out (c : Consumer) : (setConsumer c s).out = s.out := rfl
@[simp] theorem setConsumer_port (c : Consumer) : (setConsumer c s).port = s.port := rfl
@[simp] theorem setConsumer_fresh (c : Consumer) : (setConsumer c s).fresh = s.fresh := rfl

@[simp] theorem setUnitP_q (p : UnitP α) : (setUnitP p s).q = s.q := rfl
@[simp] theorem setUnitP_p (p : UnitP α) : (setUnitP p s).p = p := rfl
@[simp] theorem setUnitP_b (p : UnitP α) : (setUnitP p s).b = s.b := rfl
@[simp] theorem setUnitP_hosts (p : UnitP α) : (setUnitP p s).hosts = s.hosts := rfl
@[simp] theorem setUnitP_params (p : UnitP α) : (setUnitP p s).params = s.params := rfl
@[simp] theorem setUnitP_inbox (p : UnitP α) : (setUnitP p s).inbox = s.inbox := rfl
@[simp] theorem setUnitP_out (p : UnitP α) : (setUnitP p s).out = s.out := rfl
@[simp] theorem setUnitP_port (p : UnitP α) : (setUnitP p s).port = s.port := rfl
@[simp] theorem setUnitP_fresh (p : UnitP α) : (setUnitP p s).fresh = s.fresh := rfl

@[simp] theorem setInFlight_q (g : HostAgent) (r : Option ResetLeft) : (setInFlight g r s).q = s.q := by cases g <;> rfl
@[simp] theorem setInFlight_p (g : HostAgent) (r : Option ResetLeft) : (setInFlight g r s).p = s.p := by cases g <;> rfl
@[simp] theorem setInFlight_b (g : HostAgent) (r : Option ResetLeft) : (setInFlight g r s).b = s.b := by cases g <;> rfl
@[simp] theorem setInFlight_params (g : HostAgent) (r : Option ResetLeft) : (setInFlight g r s).params = s.params := by cases g <;> rfl
@[simp] theorem setInFlight_inbox (g : HostAgent) (r : Option ResetLeft) : (setInFlight g r s).inbox = s.inbox := by cases g <;> rfl
@[simp] theorem setInFlight_out (g : HostAgent) (r : Option ResetLeft) : (setInFlight g r s).out = s.out := by cases g <;> rfl
@[simp] theorem setInFlight_port (g : HostAgent) (r : Option ResetLeft) : (setInFlight g r s).port = s.port := by cases g <;> rfl
@[simp] theorem setInFlight_fresh (g : HostAgent) (r : Option ResetLeft) : (setInFlight g r s).fresh = s.fresh := by cases g <;> rfl

@[simp] theorem servePort_q (g : HostAgent) : (servePort g s).q = s.q := rfl
@[simp] theorem servePort_p (g : HostAgent) : (servePort g s).p = s.p := rfl
@[simp] theorem servePort_b (g : HostAgent) : (servePort g s).b = s.b := rfl
@[simp] theorem servePort_hosts (g : HostAgent) : (servePort g s).hosts = s.hosts := rfl
@[simp] theorem servePort_params (g : HostAgent) : (servePort g s).params = s.params := rfl
@[simp] theorem servePort_inbox (g : HostAgent) : (servePort g s).inbox = s.inbox := rfl
@[simp] theorem servePort_out (g : HostAgent) : (servePort g s).out = s.out := rfl
@[simp] theorem servePort_port (g : HostAgent) : (servePort g s).port = g := rfl
@[simp] theorem servePort_fresh (g : HostAgent) : (servePort g s).fresh = s.fresh := rfl

@[simp] theorem exitConsumer_q : (exitConsumer s).q = s.q := rfl
@[simp] theorem exitConsumer_p : (exitConsumer s).p = s.p := rfl
@[simp] theorem exitConsumer_b : (exitConsumer s).b = { s.b with life := .stopped, consumer := .gone } := rfl
@[simp] theorem exitConsumer_hosts : (exitConsumer s).hosts = s.hosts := rfl
@[simp] theorem exitConsumer_params : (exitConsumer s).params = s.params := rfl
@[simp] theorem exitConsumer_inbox : (exitConsumer s).inbox = s.inbox := rfl
@[simp] theorem exitConsumer_out : (exitConsumer s).out = s.out := rfl
@[simp] theorem exitConsumer_port : (exitConsumer s).port = s.port := rfl
@[simp] theorem exitConsumer_fresh : (exitConsumer s).fresh = s.fresh := rfl

@[simp] theorem release_q : (release s).q = s.q := rfl
@[simp] theorem release_p : (release s).p = s.p := rfl
@[simp] theorem release_b : (release s).b = { s.b with life := .released, source := .released, joining := false } := rfl
@[simp] theorem release_hosts : (release s).hosts = s.hosts := rfl
@[simp] theorem release_params : (release s).params = s.params := rfl
@[simp] theorem release_inbox : (release s).inbox = s.inbox := rfl
@[simp] theorem release_out : (release s).out = s.out := rfl
@[simp] theorem release_port : (release s).port = s.port := rfl
@[simp] theorem release_fresh : (release s).fresh = s.fresh := rfl

@[simp] theorem fetched_q (rest : List Stimulus) : (fetched rest s).q = s.q := rfl
@[simp] theorem fetched_p (rest : List Stimulus) : (fetched rest s).p = s.p := rfl
@[simp] theorem fetched_b (rest : List Stimulus) : (fetched rest s).b = s.b := rfl
@[simp] theorem fetched_hosts (rest : List Stimulus) : (fetched rest s).hosts = s.hosts := rfl
@[simp] theorem fetched_params (rest : List Stimulus) : (fetched rest s).params = s.params := rfl
@[simp] theorem fetched_inbox (rest : List Stimulus) : (fetched rest s).inbox = rest := rfl
@[simp] theorem fetched_out (rest : List Stimulus) : (fetched rest s).out = [] := rfl
@[simp] theorem fetched_port (rest : List Stimulus) : (fetched rest s).port = s.port := rfl
@[simp] theorem fetched_fresh (rest : List Stimulus) : (fetched rest s).fresh = s.fresh := rfl

@[simp] theorem storeStamp_A_q (ts : Nat) : (storeStamp .A ts s).q = { s.q with stampA := ⟨ts, true⟩ } := rfl
@[simp] theorem storeStamp_B_q (ts : Nat) : (storeStamp .B ts s).q = { s.q with stampB := ⟨ts, true⟩ } := rfl

/-- A timestamp store leaves the counters, the phase and the interval alone (40_qdec.md R83). -/
@[simp] theorem storeStamp_count (ch : Channel) (ts : Nat) : (storeStamp ch ts s).q.count = s.q.count := by
  cases ch <;> rfl
@[simp] theorem storeStamp_illegal (ch : Channel) (ts : Nat) :
    (storeStamp ch ts s).q.illegal = s.q.illegal := by
  cases ch <;> rfl
@[simp] theorem storeStamp_phase (ch : Channel) (ts : Nat) : (storeStamp ch ts s).q.phase = s.q.phase := by
  cases ch <;> rfl
@[simp] theorem storeStamp_debounceUs (ch : Channel) (ts : Nat) :
    (storeStamp ch ts s).q.debounceUs = s.q.debounceUs := by
  cases ch <;> rfl

/-- The stored timestamp is read back, and the other channel's is untouched (40_qdec.md R83). -/
@[simp] theorem stampOf_storeStamp (ch : Channel) (ts : Nat) :
    stampOf ch (storeStamp ch ts s) = ⟨ts, true⟩ := by
  cases ch <;> rfl
theorem stampOf_storeStamp_other (ch c : Channel) (ts : Nat) (h : c ≠ ch) :
    stampOf c (storeStamp ch ts s) = stampOf c s := by
  cases ch <;> cases c <;> first | rfl | exact absurd rfl h

/-- A host agent's command in flight is read back, and the other agents' are untouched. -/
@[simp] theorem inFlight_setInFlight (g : HostAgent) (r : Option ResetLeft) : inFlight g (setInFlight g r s) = r := by
  cases g <;> rfl
theorem inFlight_setInFlight_other (g k : HostAgent) (r : Option ResetLeft) (h : k ≠ g) :
    inFlight k (setInFlight g r s) = inFlight k s := by
  cases g <;> cases k <;> first | rfl | exact absurd rfl h

end Sys2Proof.Machine
end

