-- ==== Sys2Proof/Laws/Ops.lean ====
section
/-! SUPPORT. What each shared operation can do, said once: admission, operands, the commands in flight, the events of
a `QEDGE`, the consumer's turn, and the step. -/

namespace Sys2Proof.Machine

variable {α : Type}

/-! ### Admission and operands -/

theorem admitted_of_observable {s : State α} (h : observable s = true)
    (k : State α → Host.Outcome (State α) Fault Refusal) : admitted s k = k s := by
  simp [admitted, h]

theorem admitted_of_not_observable {s : State α} (h : observable s = false)
    (k : State α → Host.Outcome (State α) Fault Refusal) : admitted s k = .next (respond .notReady (.int 0) s) := by
  simp [admitted, h]

/-- An admitted command runs, or it is answered `NOT_READY` and nothing else happens. -/
theorem admitted_next {s t : State α} {k : State α → Host.Outcome (State α) Fault Refusal} (h : admitted s k = .next t) :
    (observable s = true ∧ k s = .next t) ∨ (observable s = false ∧ t = respond .notReady (.int 0) s) := by
  cases ho : observable s with
  | true => exact .inl ⟨rfl, by simpa [admitted, ho] using h⟩
  | false => exact .inr ⟨rfl, by simpa [admitted, ho] using h.symm⟩

/-- A `NUM` operand of a command that goes on is an ordered value. -/
theorem withNum_next {N : NumSys α} {v : Slot} {k : α → Host.Outcome (State α) Fault Refusal} {t : State α}
    (h : withNum N v k = .next t) : ∃ x, N.ofSlot v = some x ∧ k x = .next t := by
  unfold withNum at h
  split at h
  · exact ⟨_, ‹_›, h⟩
  · cases h

theorem withNum_some {N : NumSys α} {v : Slot} {x : α} (h : N.ofSlot v = some x)
    (k : α → Host.Outcome (State α) Fault Refusal) : withNum N v k = k x := by
  simp [withNum, h]

theorem withNum_none {N : NumSys α} {v : Slot} (h : N.ofSlot v = none) (k : α → Host.Outcome (State α) Fault Refusal) :
    withNum N v k = .refused .unorderedNum := by
  simp [withNum, h]

/-! ### Commands in flight -/

/-- A host agent with nothing in flight has nothing to finish. -/
@[simp] theorem finishReset_idle {g : HostAgent} {s : State α} (h : inFlight g s = none) : finishReset g s = s := by
  simp [finishReset, h]

theorem finishReset_cases (g : HostAgent) (s : State α) :
    (inFlight g s = none ∧ finishReset g s = s) ∨
    (inFlight g s = some .countLeft ∧
      finishReset g s = respondOk (.int 0) (servePort g (setInFlight g none (storeCount 0 s)))) ∨
    (inFlight g s = some .illegalLeft ∧
      finishReset g s = respondOk (.int 0) (servePort g (setInFlight g none (storeIllegal 0 s)))) := by
  unfold finishReset
  cases inFlight g s with
  | none => simp
  | some r => cases r <;> simp

@[simp] theorem finishReset_p (g : HostAgent) (s : State α) : (finishReset g s).p = s.p := by
  obtain ⟨-, h⟩ | ⟨-, h⟩ | ⟨-, h⟩ := finishReset_cases g s <;> simp [h]
@[simp] theorem finishReset_b (g : HostAgent) (s : State α) : (finishReset g s).b = s.b := by
  obtain ⟨-, h⟩ | ⟨-, h⟩ | ⟨-, h⟩ := finishReset_cases g s <;> simp [h]
@[simp] theorem finishReset_params (g : HostAgent) (s : State α) : (finishReset g s).params = s.params := by
  obtain ⟨-, h⟩ | ⟨-, h⟩ | ⟨-, h⟩ := finishReset_cases g s <;> simp [h]
@[simp] theorem finishReset_inbox (g : HostAgent) (s : State α) : (finishReset g s).inbox = s.inbox := by
  obtain ⟨-, h⟩ | ⟨-, h⟩ | ⟨-, h⟩ := finishReset_cases g s <;> simp [h]
@[simp] theorem finishReset_fresh (g : HostAgent) (s : State α) : (finishReset g s).fresh = s.fresh := by
  obtain ⟨-, h⟩ | ⟨-, h⟩ | ⟨-, h⟩ := finishReset_cases g s <;> simp [h]
@[simp] theorem finishReset_phase (g : HostAgent) (s : State α) : (finishReset g s).q.phase = s.q.phase := by
  obtain ⟨-, h⟩ | ⟨-, h⟩ | ⟨-, h⟩ := finishReset_cases g s <;> simp [h]

@[simp] theorem beginReset_p (g : HostAgent) (l : ResetLeft) (s : State α) : (beginReset g l s).p = s.p := by
  cases l <;> simp [beginReset]
@[simp] theorem beginReset_b (g : HostAgent) (l : ResetLeft) (s : State α) : (beginReset g l s).b = s.b := by
  cases l <;> simp [beginReset]
@[simp] theorem beginReset_params (g : HostAgent) (l : ResetLeft) (s : State α) :
    (beginReset g l s).params = s.params := by
  cases l <;> simp [beginReset]
@[simp] theorem beginReset_phase (g : HostAgent) (l : ResetLeft) (s : State α) :
    (beginReset g l s).q.phase = s.q.phase := by
  cases l <;> simp [beginReset]

/-! ### The events of a `QEDGE` -/

theorem endEdge_eq (l : Label) (rest : List Channel) (s : State α) :
    endEdge l rest s = raise l (setConsumer (afterChannel rest) s) := rfl

/-- Every field but `q`, the consumer and what is put out stays under an event of a `QEDGE`. -/
theorem tableStep_frame (new : BitVec 2) (s : State α) :
    (tableStep new s).p = s.p ∧ (tableStep new s).b = s.b ∧ (tableStep new s).hosts = s.hosts ∧
    (tableStep new s).params = s.params ∧ (tableStep new s).inbox = s.inbox ∧ (tableStep new s).out = s.out ∧
    (tableStep new s).port = s.port ∧ (tableStep new s).fresh = s.fresh := by
  simp only [tableStep]
  split_ifs <;> simp

/-- The next event of a `QEDGE` in flight, case by case. -/
theorem advanceEdge_cases (lvA lvB : Level) (s : State α) :
    advanceEdge lvA lvB s = s ∨
    (∃ rest, s.b.consumer = .inEdge rest .accepted ∧ phaseOf lvA lvB = none ∧
      advanceEdge lvA lvB s = endEdge .readFail rest s) ∨
    (∃ rest new, s.b.consumer = .inEdge rest .accepted ∧ phaseOf lvA lvB = some new ∧ s.params.update = .rmw ∧
      advanceEdge lvA lvB s = endEdge (tableLabel (loadPhase s) new) rest (tableStep new s)) ∨
    (∃ rest new, s.b.consumer = .inEdge rest .accepted ∧ phaseOf lvA lvB = some new ∧ s.params.update = .split ∧
      advanceEdge lvA lvB s = splitLoad new rest s) ∨
    (∃ rest v delta new, s.b.consumer = .inEdge rest (.countLoaded v delta new) ∧
      advanceEdge lvA lvB s = endEdge .applied rest (storePhase new (storeCount (wrapCount s.params v delta) s))) ∨
    (∃ rest v new, s.b.consumer = .inEdge rest (.illegalLoaded v new) ∧
      advanceEdge lvA lvB s = endEdge .illegal rest (storePhase new (storeIllegal (wrapIllegal s.params v) s))) := by
  cases hc : s.b.consumer with
  | gone => exact .inl (by simp [advanceEdge, hc])
  | top => exact .inl (by simp [advanceEdge, hc])
  | blocked => exact .inl (by simp [advanceEdge, hc])
  | servicing rest => exact .inl (by simp [advanceEdge, hc])
  | inEdge rest stage =>
    cases stage with
    | accepted =>
      cases hp : phaseOf lvA lvB with
      | none => exact .inr (.inl ⟨rest, rfl, rfl, by simp [advanceEdge, hc, hp]⟩)
      | some new =>
        cases hu : s.params.update with
        | rmw => exact .inr (.inr (.inl ⟨rest, new, rfl, rfl, rfl, by simp [advanceEdge, hc, hp, hu]⟩))
        | split => exact .inr (.inr (.inr (.inl ⟨rest, new, rfl, rfl, rfl, by simp [advanceEdge, hc, hp, hu]⟩)))
    | countLoaded v delta new =>
      exact .inr (.inr (.inr (.inr (.inl ⟨rest, v, delta, new, rfl, by simp [advanceEdge, hc]⟩))))
    | illegalLoaded v new =>
      exact .inr (.inr (.inr (.inr (.inr ⟨rest, v, new, rfl, by simp [advanceEdge, hc]⟩))))

/-- What an event of a `QEDGE` in flight leaves alone. -/
theorem advanceEdge_frame (lvA lvB : Level) (s : State α) :
    (advanceEdge lvA lvB s).p = s.p ∧ (advanceEdge lvA lvB s).hosts = s.hosts ∧
    (advanceEdge lvA lvB s).params = s.params ∧ (advanceEdge lvA lvB s).inbox = s.inbox ∧
    (advanceEdge lvA lvB s).port = s.port ∧ (advanceEdge lvA lvB s).fresh = s.fresh ∧
    (advanceEdge lvA lvB s).b.life = s.b.life ∧ (advanceEdge lvA lvB s).b.run = s.b.run ∧
    (advanceEdge lvA lvB s).b.source = s.b.source ∧ (advanceEdge lvA lvB s).b.joining = s.b.joining := by
  obtain h | ⟨_, -, -, h⟩ | ⟨_, new, -, -, -, h⟩ | ⟨_, _, -, -, -, h⟩ | ⟨_, _, _, _, -, h⟩ | ⟨_, _, _, -, h⟩ :=
    advanceEdge_cases lvA lvB s
  · simp [h]
  · simp [h, endEdge]
  · obtain ⟨h1, h2, h3, h4, h5, -, h7, h8⟩ := tableStep_frame new s
    simp [h, endEdge, h1, h2, h3, h4, h5, h7, h8]
  · simp only [h, splitLoad]
    split_ifs <;> simp [endEdge]
  · simp [h, endEdge]
  · simp [h, endEdge]

/-- An edge in flight is brought to its end with some two levels; with none in flight nothing happens. -/
theorem settleEdge_cases (s : State α) :
    ((∀ rest stage, s.b.consumer ≠ .inEdge rest stage) ∧ settleEdge s = s) ∨
    ∃ rest stage a b, s.b.consumer = .inEdge rest stage ∧ settleEdge s = finishEdge a b (useFree 2 s) := by
  cases h : s.b.consumer with
  | gone => exact .inl ⟨fun _ _ => by simp, by simp [settleEdge, h]⟩
  | top => exact .inl ⟨fun _ _ => by simp, by simp [settleEdge, h]⟩
  | blocked => exact .inl ⟨fun _ _ => by simp, by simp [settleEdge, h]⟩
  | servicing _ => exact .inl ⟨fun _ _ => by simp, by simp [settleEdge, h]⟩
  | inEdge rest stage => exact .inr ⟨rest, stage, _, _, rfl, by rw [settleEdge, h]⟩

/-- What bringing an edge in flight to its end leaves alone. -/
theorem settleEdge_frame (s : State α) :
    (settleEdge s).p = s.p ∧ (settleEdge s).hosts = s.hosts ∧ (settleEdge s).params = s.params ∧
    (settleEdge s).inbox = s.inbox ∧ (settleEdge s).port = s.port ∧ (settleEdge s).b.life = s.b.life ∧
    (settleEdge s).b.run = s.b.run := by
  obtain ⟨-, h⟩ | ⟨_, _, a, b, -, h⟩ := settleEdge_cases s
  · simp [h]
  · obtain ⟨h1, h2, h3, h4, h5, -, h7, h8, -⟩ := advanceEdge_frame a b (advanceEdge a b (useFree 2 s))
    obtain ⟨k1, k2, k3, k4, k5, -, k7, k8, -⟩ := advanceEdge_frame a b (useFree 2 s)
    simp [h, finishEdge, h1, h2, h3, h4, h5, h7, h8, k1, k2, k3, k4, k5, k7, k8]

/-- What the first event of a `QEDGE` leaves alone. -/
theorem beginEdge_frame (ch : Channel) (ts : Slot) (rest : List Channel) (s : State α) :
    (beginEdge ch ts rest s).p = s.p ∧ (beginEdge ch ts rest s).hosts = s.hosts ∧
    (beginEdge ch ts rest s).params = s.params ∧ (beginEdge ch ts rest s).inbox = s.inbox ∧
    (beginEdge ch ts rest s).port = s.port ∧ (beginEdge ch ts rest s).q.count = s.q.count ∧
    (beginEdge ch ts rest s).q.phase = s.q.phase ∧ (beginEdge ch ts rest s).q.illegal = s.q.illegal ∧
    (beginEdge ch ts rest s).q.debounceUs = s.q.debounceUs ∧ (beginEdge ch ts rest s).b.life = s.b.life ∧
    (beginEdge ch ts rest s).b.run = s.b.run := by
  unfold beginEdge
  simp only []
  split_ifs <;> simp [endEdge]

/-- The turn of the consumer of a block that is not `RUNNING` does nothing (60_exceptions.md R176). -/
@[simp] theorem consumerTurn_not_running (a : Answers) {s : State α} (h : s.b.life ≠ .running) :
    consumerTurn a s = s := by
  simp [consumerTurn, h]

/-! ### The step -/

/-- The machine is the one over the binary64 number system (41_pid.md R120). -/
theorem exec_eq_execOver (i : Instr) (s : State) : exec i s = execOver numSys i s := by cases i <;> rfl

theorem step_eq_stepOver (s : State) : step s = stepOver numSys s := by
  have h : exec = execOver numSys := funext fun i => funext fun s => exec_eq_execOver i s
  unfold step stepOver
  rw [h]

/-- What one step does, by the stimulus at the head of the inbox. -/
theorem stepWith_cases {run : Instr → State α → Host.Outcome (State α) Fault Refusal} {s t : State α}
    (h : stepWith run s = .next t) :
    (s.inbox = [] ∧ t = quietTurn (fetched [] s)) ∨
    (∃ g w pace rest, s.inbox = .command g w pace :: rest ∧
      serveCommand run g w pace (serveHost g (fetched rest s)) = .next t) ∨
    (∃ w i rest, s.inbox = .environment w :: rest ∧ stimulusOf s.params w = some i ∧
      run i (fetched rest s) = .next t) ∨
    (∃ a rest, s.inbox = .consumer a :: rest ∧ t = consumerTurn a (fetched rest s)) ∨
    (∃ g rest, s.inbox = .resume g :: rest ∧ t = finishReset g (fetched rest s)) ∨
    (∃ rest, s.inbox = .join :: rest ∧ t = joinRelease (fetched rest s)) := by
  unfold stepWith at h
  split at h <;> rename_i hin
  · exact .inl ⟨hin, by simpa using h.symm⟩
  · exact .inr (.inl ⟨_, _, _, _, hin, h⟩)
  · rename_i w rest
    unfold serveStimulus at h
    split at h
    · exact .inr (.inr (.inl ⟨w, _, rest, hin, ‹_›, h⟩))
    · cases h
  · exact .inr (.inr (.inr (.inl ⟨_, _, hin, by simpa using h.symm⟩)))
  · exact .inr (.inr (.inr (.inr (.inl ⟨_, _, hin, by simpa using h.symm⟩))))
  · exact .inr (.inr (.inr (.inr (.inr ⟨_, hin, by simpa using h.symm⟩))))

theorem step_cases {s t : State} (h : step s = .next t) :
    (s.inbox = [] ∧ t = quietTurn (fetched [] s)) ∨
    (∃ g w pace rest, s.inbox = .command g w pace :: rest ∧
      serveCommand exec g w pace (serveHost g (fetched rest s)) = .next t) ∨
    (∃ w i rest, s.inbox = .environment w :: rest ∧ stimulusOf s.params w = some i ∧
      exec i (fetched rest s) = .next t) ∨
    (∃ a rest, s.inbox = .consumer a :: rest ∧ t = consumerTurn a (fetched rest s)) ∨
    (∃ g rest, s.inbox = .resume g :: rest ∧ t = finishReset g (fetched rest s)) ∨
    (∃ rest, s.inbox = .join :: rest ∧ t = joinRelease (fetched rest s)) :=
  stepWith_cases h

/-- A host's record is rejected, leaves its `QRESET` in flight, or runs (30_encoding.md R62; 40_qdec.md R92). -/
theorem serveCommand_cases {run : Instr → State α → Host.Outcome (State α) Fault Refusal} {g : HostAgent} {w : Record}
    {pace : Pace} {s t : State α} (h : serveCommand run g w pace s = .next t) :
    (commandOf w = none ∧ t = rejectCommand s) ∨
    (∃ left, commandOf w = some .qreset ∧ observable s = true ∧ t = beginReset g left s) ∨
    (∃ i, commandOf w = some i ∧ run i s = .next t) := by
  unfold serveCommand at h
  split at h
  · exact .inl ⟨‹_›, by simpa using h.symm⟩
  · rename_i i hi
    split at h
    · rename_i s' hf
      refine .inr (.inl ?_)
      unfold firstEvent at hf
      split at hf
      · rename_i left _
        split_ifs at hf with ho
        · exact ⟨left, hi, ho, by simp_all⟩
      · cases hf
    · exact .inr (.inr ⟨i, hi, h⟩)

/-- A step of one block of a platform is that block's step, and leaves the others alone (60_exceptions.md R178). -/
theorem platformStep_next {nMotors : Nat} {k : Fin nMotors} {pl pl' : Platform nMotors}
    (h : platformStep k pl = .next pl') : ∃ t, step pl[k] = .next t ∧ pl' = pl.set k t := by
  unfold platformStep at h
  split at h
  · exact ⟨_, ‹_›, by simpa using h.symm⟩
  · cases h
  · cases h

end Sys2Proof.Machine
end

