-- ==== Sys2Proof/Laws/Number.lean ====
section
/-! SUPPORT. Small laws of the number systems and of `sat` (41_pid.md R120, R124). -/

namespace Sys2Proof.Machine

@[simp] theorem numSys_lt (k : Nat) (x y : Num64) :
    (numSys k).lt x y = decide (Num64.toInt x < Num64.toInt y) := rfl
@[simp] theorem numSys_le (k : Nat) (x y : Num64) :
    (numSys k).le x y = decide (Num64.toInt x ≤ Num64.toInt y) := rfl
@[simp] theorem numSys_ofSlot (k : Nat) : (numSys k).ofSlot = numOfSlot := rfl
@[simp] theorem numSys_epsDt (k : Nat) : (numSys k).epsDt = Config.epsDt := rfl
theorem numSys_zero (k n : Nat) : (numSys k).zero n = ⟨Config.freeZeroSign (k + n), 0⟩ := rfl

/-- Both zeros have the value 0 (41_pid.md R122). -/
@[simp] theorem toInt_zero (b : Bool) : Num64.toInt ⟨b, 0⟩ = 0 := by simp [Num64.toInt]
@[simp] theorem numSys_zero_toInt (k n : Nat) : Num64.toInt ((numSys k).zero n) = 0 := by
  rw [numSys_zero, toInt_zero]

@[simp] theorem exact_lt (x y : Rat) : exact.lt x y = decide (x < y) := rfl
@[simp] theorem exact_le (x y : Rat) : exact.le x y = decide (x ≤ y) := rfl
@[simp] theorem exact_zero (n : Nat) : exact.zero n = 0 := rfl

/-- A wrapped counter lies in its range (00_scope.md R8). -/
theorem wrapS_range {n : Nat} (h : 1 ≤ n) (z : Int) : -2 ^ (n - 1) ≤ wrapS n z ∧ wrapS n z < 2 ^ (n - 1) := by
  obtain ⟨m, rfl⟩ : ∃ m, n = m + 1 := ⟨n - 1, by omega⟩
  have hp : (0 : Int) < 2 ^ (m + 1) := by positivity
  have hd : (2 : Int) ^ (m + 1) = 2 * 2 ^ m := by rw [pow_succ]; ring
  have hl := Int.le_bmod (x := z) (m := 2 ^ (m + 1)) (by positivity)
  have hu := Int.bmod_lt (x := z) (m := 2 ^ (m + 1)) (by positivity)
  simp only [wrapS, Nat.add_sub_cancel]
  push_cast at hl hu
  omega

theorem wrapU_lt (n z : Nat) : wrapU n z < 2 ^ n := Nat.mod_lt _ (by positivity)

/-- `sat` returns one of its three arguments (41_pid.md R124). -/
theorem sat_is_argument {α : Type} (N : NumSys α) (v lo hi : α) :
    sat N v lo hi = v ∨ sat N v lo hi = lo ∨ sat N v lo hi = hi := by
  unfold sat
  split_ifs <;> simp

/-- A result rounds its exact magnitude; only a zero's sign is free. -/
theorem ofRatio_some {zs neg : Bool} {n d : Nat} {x : Num64} (h : Num64.ofRatio zs neg n d = some x) :
    roundMagnitude n d = some x.mag ∧ x.neg = (if x.mag.val = 0 then zs else neg) := by
  obtain ⟨m, hm, rfl⟩ := Option.map_eq_some_iff.mp h
  exact ⟨hm, rfl⟩

end Sys2Proof.Machine
end

