-- ==== Sys2Proof/Laws/PerInstr.lean ====
section
/-! SUPPORT. A law proved for each operation: the `op` byte of its record is its row's opcode (30_encoding.md R60,
R66). -/

namespace Sys2Proof.Laws

/-- Packing puts the opcode where the decoder looks for it. -/
theorem op_pack (op : BitVec 8) (a b c : Slot) : Record.op (Record.pack op a b c) = op := by
  apply BitVec.eq_of_getLsbD_eq
  intro i hi
  have h1 : ¬ 192 + i < 64 := by omega
  have h2 : ¬ 192 + i - 64 < 64 := by omega
  have h3 : ¬ 192 + i - 64 - 64 < 64 := by omega
  have h4 : 192 + i - 64 - 64 - 64 = i := by omega
  simp only [Record.op, Record.pack, BitVec.getLsbD_extractLsb', BitVec.getLsbD_append, h1, h2, h3, h4, hi]
  simp

/-- The `op` byte of an operation's record is the opcode of its row. -/
def OpByte.Statement (i : Instr) : Prop := Record.op (encode i) = opcode i

theorem OpByte.qrdCount : OpByte.Statement .qrdCount := op_pack _ _ _ _
theorem OpByte.qrdIllegal : OpByte.Statement .qrdIllegal := op_pack _ _ _ _
theorem OpByte.qreset : OpByte.Statement .qreset := op_pack _ _ _ _
theorem OpByte.qsetDebounce (us : Slot) : OpByte.Statement (.qsetDebounce us) := op_pack _ _ _ _
theorem OpByte.qedge (ch : Channel) (ts : Slot) (lvA lvB : Level) : OpByte.Statement (.qedge ch ts lvA lvB) :=
  op_pack _ _ _ _
theorem OpByte.pstep (ref meas dt : Slot) : OpByte.Statement (.pstep ref meas dt) := op_pack _ _ _ _
theorem OpByte.preset (iseed eseed : Slot) : OpByte.Statement (.preset iseed eseed) := op_pack _ _ _ _
theorem OpByte.psetKp (v : Slot) : OpByte.Statement (.psetKp v) := op_pack _ _ _ _
theorem OpByte.psetKi (v : Slot) : OpByte.Statement (.psetKi v) := op_pack _ _ _ _
theorem OpByte.psetKd (v : Slot) : OpByte.Statement (.psetKd v) := op_pack _ _ _ _
theorem OpByte.psetOutLimits (a b : Slot) : OpByte.Statement (.psetOutLimits a b) := op_pack _ _ _ _
theorem OpByte.psetIntLimits (a b : Slot) : OpByte.Statement (.psetIntLimits a b) := op_pack _ _ _ _
theorem OpByte.psetAwGain (v : Slot) : OpByte.Statement (.psetAwGain v) := op_pack _ _ _ _
theorem OpByte.prdInteg : OpByte.Statement .prdInteg := op_pack _ _ _ _
theorem OpByte.prdLastU : OpByte.Statement .prdLastU := op_pack _ _ _ _
theorem OpByte.prdLastY : OpByte.Statement .prdLastY := op_pack _ _ _ _
theorem OpByte.bconstruct (acquireFails : Bool) (lvA lvB : Level) :
    OpByte.Statement (.bconstruct acquireFails lvA lvB) := op_pack _ _ _ _
theorem OpByte.bstop : OpByte.Statement .bstop := op_pack _ _ _ _
theorem OpByte.brelease : OpByte.Statement .brelease := op_pack _ _ _ _

end Sys2Proof.Laws
end

