-- ==== Sys2Proof/Tests/Slice0.lean ====
section
/-! SUPPORT. Tests of the model on the spec's own vectors (95_test_vectors.md), and for each statement with hypotheses
a concrete input that meets them (`witness_<statement>`). Expected values are the spec's. -/

namespace Sys2Proof.Tests

open Sys2Proof Sys2Proof.Machine

/-! ### Helpers -/

/-- Whether a step answers a next state that passes a check. -/
def answers (o : Host.Outcome State Fault Refusal) (check : State → Bool) : Bool :=
  match o with
  | .next t => check t
  | .fault _ => false
  | .refused _ => false

theorem next_of_answers {o : Host.Outcome State Fault Refusal} {check : State → Bool}
    (h : answers o check = true) : ∃ t, o = .next t ∧ check t = true := by
  cases o with
  | next t => exact ⟨t, rfl, h⟩
  | fault f => cases h
  | refused r => cases h

/-- A `NUM` from the pattern of its slot. -/
def num (v : Slot) : Num64 := (numOfSlot v).getD zeroNum

/-- The parameters of the vectors: `PID_INIT` is that of P-BC, with the output pair in the wrong order. -/
def params (u : Update) : Params Num64 :=
  { Params.default 10000 100 Config.epsDt
      { kp := num 0x4000000000000000, ki := num 0x4010000000000000, kd := num 0x3FE0000000000000,
        outA := num 0x3FF0000000000000, outB := num 0xBFF0000000000000,
        intA := num 0xC020000000000000, intB := num 0x4020000000000000, kaw := num 0x4000000000000000 } with
    update := u }

/-- The configuration of P-BC, with the two seeds given. -/
def unitP (kaw integ prevErr : Slot) : UnitP Num64 :=
  { kp := num 0x4000000000000000, ki := num 0x4010000000000000, kd := num 0x3FE0000000000000,
    outMin := num 0xBFF0000000000000, outMax := num 0x3FF0000000000000,
    intMin := num 0xC020000000000000, intMax := num 0x4020000000000000, kaw := num kaw,
    integ := num integ, prevErr := num prevErr, lastU := zeroNum, lastY := zeroNum }

/-- A `RUNNING` block whose consumer is in this control state. -/
def running (count : Int) (phase illegal : Nat) (c : Consumer) : State :=
  { q := { count := count, phase := BitVec.ofNat 8 phase, illegal := illegal,
           stampA := ⟨1000, true⟩, stampB := ⟨0, false⟩, debounceUs := 100 }
    p := unitP 0x4000000000000000 0 0
    b := { life := .running, run := true, source := .held, joining := false, consumer := c }
    hosts := ⟨none, none, none⟩, params := params .rmw, inbox := [], out := [], port := .foreground, fresh := 0 }

/-- The same block in another lifecycle state, its consumer gone. -/
def inLife (l : Life) (src : Source) : State :=
  { running 5 1 1 .gone with b := { life := l, run := false, source := src, joining := false, consumer := .gone } }

/-- The block with these things to happen. -/
def fed (s : State) (l : List Stimulus) : State := { s with inbox := l }

/-- A silent environment. -/
def quiet : Answers := silent .low .low

/-- The answers to a level read. -/
def levels (lvA lvB : Level) : Answers := silent lvA lvB

/-- The answer to an event read. -/
def event (ts : Slot) : Answers := { quiet with event := some ts }

/-- The answer to a wait. -/
def ready (r : Ready) : Answers := { quiet with ready := r }

/-- The blocked block with this unit P. -/
def withP (p : UnitP Num64) : State := { running 5 1 1 .blocked with p := p }

/-! ### Well-formedness, decoding, encoding -/

theorem test_wf_refuses_high_bit : Instr.wf (params .rmw) (.qsetDebounce 0x100000000#64) = false := by decide
theorem test_wf_takes_greatest : Instr.wf (params .rmw) (.qsetDebounce 0xFFFFFFFF#64) = true := by decide
/-- R63, format `EV`: with `W_TS` = 32 the bits of `b` above 31 are must-be-zero. -/
theorem test_wf_timestamp : Instr.wf { params .rmw with wTs := 32 } (.qedge .A 0x100000000#64 .low .low) = false ∧
    Instr.wf (params .rmw) (.qedge .A 0xFFFFFFFFFFFFFFFF#64 .low .low) = true := by decide

theorem test_decode_qrdCount :
    decode 0x01_DEADBEEF00000000_0000000000000001_FFFFFFFFFFFFFFFF#200 = .ok .qrdCount := by rfl
theorem test_decode_qrdIllegal :
    decode 0x02_0000000000000000_0000000000000000_0000000000000000#200 = .ok .qrdIllegal := by rfl
theorem test_decode_qreset :
    decode 0x03_0000000000000000_0000000000000000_0000000000000000#200 = .ok .qreset := by rfl
theorem test_decode_qsetDebounce :
    decode 0x04_00000000000000C8_0000000000000000_0000000000000000#200 = .ok (.qsetDebounce 200) := by rfl
theorem test_decode_qedge :
    decode 0x10_0000000000000001_00000000000003E8_0000000000000004#200 = .ok (.qedge .B 1000 .low .high) := by rfl
theorem test_decode_qedge_read_fail :
    decode 0x10_0000000000000000_0000000000000FA0_0000000000000009#200 = .ok (.qedge .A 4000 .high .fail) := by rfl
theorem test_decode_pstep :
    decode 0x20_3FF0000000000000_3FD0000000000000_3FD8000000000000#200 =
      .ok (.pstep 0x3FF0000000000000 0x3FD0000000000000 0x3FD8000000000000) := by rfl
theorem test_decode_preset :
    decode 0x21_4008000000000000_BFD0000000000000_0000000000000000#200 =
      .ok (.preset 0x4008000000000000 0xBFD0000000000000) := by rfl
theorem test_decode_psetKp :
    decode 0x22_4000000000000000_0000000000000000_0000000000000000#200 = .ok (.psetKp 0x4000000000000000) := by rfl
theorem test_decode_psetKi :
    decode 0x23_4010000000000000_0000000000000000_0000000000000000#200 = .ok (.psetKi 0x4010000000000000) := by rfl
theorem test_decode_psetKd :
    decode 0x24_3FE0000000000000_0000000000000000_0000000000000000#200 = .ok (.psetKd 0x3FE0000000000000) := by rfl
theorem test_decode_psetOutLimits :
    decode 0x25_3FF0000000000000_BFF0000000000000_0000000000000000#200 =
      .ok (.psetOutLimits 0x3FF0000000000000 0xBFF0000000000000) := by rfl
theorem test_decode_psetIntLimits :
    decode 0x26_C020000000000000_4020000000000000_0000000000000000#200 =
      .ok (.psetIntLimits 0xC020000000000000 0x4020000000000000) := by rfl
theorem test_decode_psetAwGain :
    decode 0x27_BFF0000000000000_0000000000000000_0000000000000000#200 = .ok (.psetAwGain 0xBFF0000000000000) := by rfl
theorem test_decode_prdInteg :
    decode 0x28_0000000000000000_0000000000000000_0000000000000000#200 = .ok .prdInteg := by rfl
theorem test_decode_prdLastU :
    decode 0x29_0000000000000000_0000000000000000_0000000000000000#200 = .ok .prdLastU := by rfl
theorem test_decode_prdLastY :
    decode 0x2A_0000000000000000_0000000000000000_0000000000000000#200 = .ok .prdLastY := by rfl
theorem test_decode_bconstruct :
    decode 0xF0_0000000000000000_0000000000000000_0000000000000009#200 = .ok (.bconstruct false .high .fail) := by rfl
theorem test_decode_acquire_fail :
    decode 0xF0_0000000000000000_0000000000000000_0000000000000010#200 = .ok (.bconstruct true .low .low) := by rfl
theorem test_decode_bstop :
    decode 0xF1_0000000000000000_0000000000000000_0000000000000000#200 = .ok .bstop := by rfl
theorem test_decode_brelease :
    decode 0xF2_0000000000000000_0000000000000000_0000000000000000#200 = .ok .brelease := by rfl

theorem test_decode_zero_is_reserved : decode 0#200 = .error (.reservedOpcode 0) := by rfl
theorem test_decode_unused_level_code :
    decode 0x10_0000000000000000_0000000000000FA0_0000000000000003#200 = .error .unusedLevelCode := by rfl
theorem test_decode_must_be_zero :
    decode 0x10_0000000000000002_0000000000000FA0_0000000000000000#200 = .error .mustBeZero := by rfl

theorem test_encode_qedge : encode (.qedge .B 1000 .low .high) =
    0x10_0000000000000001_00000000000003E8_0000000000000004#200 := by decide
theorem test_encode_pstep : encode (.pstep 0x3FF0000000000000 0 0x3FD0000000000000) =
    0x20_3FF0000000000000_0000000000000000_3FD0000000000000#200 := by decide
theorem test_encode_acquire_fail : encode (.bconstruct true .low .low) =
    0xF0_0000000000000000_0000000000000000_0000000000000010#200 := by decide

/-- ENC: the response words of `PRD_INTEG` with -0.5, of an illegal command and of a block not ready. -/
theorem test_response_words :
    (Response.word (params .rmw) ⟨.ok, .num (num 0xBFE0000000000000)⟩).toNat = 0x00_BFE0000000000000 ∧
    (Response.word (params .rmw) ⟨.ok, .int (-1)⟩).toNat = 0x00_FFFFFFFFFFFFFFFF ∧
    (Response.word (params .rmw) ⟨.illegalCmd, .int 0⟩).toNat = 0x01_0000000000000000 ∧
    (Response.word (params .rmw) ⟨.notReady, .int 0⟩).toNat = 0x02_0000000000000000 := by decide
/-- R61: with `W_CNT` = 80 the word is of 88 bits. -/
theorem test_response_word_wide : (Response.word { params .rmw with wCnt := 80 } ⟨.illegalCmd, .int 0⟩).toNat =
    2 ^ 80 := by decide

/-- R68: the textual forms of 95_test_vectors.md. -/
theorem test_text :
    recordText (.qedge .A 4000 .high .fail) = "QEDGE A, 4000, 1x".toList ∧
    recordText (.bconstruct true .low .low) = "BCONSTRUCT acquire-fail".toList ∧
    recordText (.pstep 0x3FF0000000000000 0 0x3FD0000000000000) = "PSTEP 1, 0, 0.25".toList := by decide +kernel

/-! ### Unit Q -/

/-- The words that the outputs of a step carry. -/
def words (t : State) : List Nat := t.out.map fun o =>
  match o with
  | .response _ r => (Response.word t.params r).toNat
  | .outcome l => Label.code l

/-- The worked examples of R90 and R91, Q-WRAP. -/
theorem test_qrdCount : answers (exec .qrdCount (running (-0x80000000) 0 0 .blocked))
    (fun t => words t = [0x00_FFFFFFFF80000000]) = true := by decide
theorem test_qrdIllegal : answers (exec .qrdIllegal (running 0 0 0xFFFFFFFF .blocked))
    (fun t => words t = [0x00_00000000FFFFFFFF]) = true := by decide
/-- Q-WRAP: `0x7FFFFFFF` plus 1, and the same at `W_CNT` = 64. -/
theorem test_count_wraps : [32, 64].map (fun w => answers (exec (.qedge .B 1000 .low .high)
      { running 0x7FFFFFFF 0 0 .blocked with params := { params .rmw with wCnt := w } })
    (fun t => t.q.count = if w = 32 then -0x80000000 else 0x80000000)) = [true, true] := by decide

/-- Q-RST. -/
theorem test_qreset : answers (exec .qreset (running 123 3 4 .blocked))
    (fun t => t.q = (running 0 3 0 .blocked).q) = true := by decide

/-- ENC: `QSET_DEBOUNCE 200`, and `a = 2^32`. -/
theorem test_qsetDebounce : answers (exec (.qsetDebounce 200) (running 0 0 0 .blocked))
    (fun t => t.q.debounceUs = 200) = true := by decide
theorem test_qsetDebounce_high_bit : answers (exec (.qsetDebounce 0x100000000) (running 0 0 0 .blocked))
    (fun t => t.q.debounceUs = 100 ∧ t.out = [.response .foreground ⟨.illegalCmd, .int 0⟩]) = true := by decide

/-- Q-TAB, all sixteen rows: the delta, whether the transition is illegal, and the outcome. -/
theorem test_qtab_rows :
    ([(0, 0), (0, 1), (0, 2), (0, 3), (1, 0), (1, 1), (1, 2), (1, 3)] : List (BitVec 2 × BitVec 2)).map
      (fun x => (qtab x.1 x.2, illegalStep x.1 x.2, tableLabel x.1 x.2)) =
      [(0, false, .noChange), (1, false, .applied), (-1, false, .applied), (0, true, .illegal),
       (-1, false, .applied), (0, false, .noChange), (0, true, .illegal), (1, false, .applied)] ∧
    ([(2, 0), (2, 1), (2, 2), (2, 3), (3, 0), (3, 1), (3, 2), (3, 3)] : List (BitVec 2 × BitVec 2)).map
      (fun x => (qtab x.1 x.2, illegalStep x.1 x.2, tableLabel x.1 x.2)) =
      [(1, false, .applied), (0, true, .illegal), (0, false, .noChange), (-1, false, .applied),
       (0, true, .illegal), (-1, false, .applied), (1, false, .applied), (0, false, .noChange)] := by decide

/-- R81: `QEDGE B, 1000, 01` from phase `00`. -/
theorem test_qedge_applied : answers (exec (.qedge .B 1000 .low .high) (running 0 0 0 .blocked))
    (fun t => t.q.count = 1 ∧ t.q.phase = 1 ∧ t.q.stampB = ⟨1000, true⟩ ∧ t.out = [.outcome .applied]) = true := by
  decide

/-- R85: phase `01`, new `10`: `Illegal`, and the count stays. -/
theorem test_qedge_illegal : answers (exec (.qedge .B 1000 .high .low) (running 7 1 2 .blocked))
    (fun t => t.q.count = 7 ∧ t.q.illegal = 3 ∧ t.q.phase = 2 ∧ t.out = [.outcome .illegal]) = true := by decide

/-- Q-DB, the rows with `debounce_us = 100` and `lastTs[A] = 1000`: rejected before it, accepted at it. -/
theorem test_qedge_debounce : ([1000, 1099, 1100] : List Slot).map
    (fun ts => answers (exec (.qedge .A ts .high .low) (running 0 0 0 .blocked))
      (fun t => t.q.count = 0 ∧ t.q.stampA = ⟨ts.toNat, true⟩ ∧ t.out = [.outcome .debounced])) = [true, true, false] := by
  decide

/-- Q-RF, the row `1x`. -/
theorem test_qedge_read_fail : answers (exec (.qedge .A 2000 .high .fail) (running 5 1 1 .blocked))
    (fun t => t.q = { (running 5 1 1 .blocked).q with stampA := ⟨2000, true⟩ } ∧ t.out = [.outcome .readFail]) =
      true := by decide

/-- R172, R63: an edge in flight ends first, and a record rejected by debounce moves nothing by its levels. -/
theorem test_qedge_after_edge_in_flight : answers (exec (.qedge .A 1050 .high .high)
      { running 5 0 1 (.inEdge [] (.countLoaded 5 1 1)) with params := params .split })
    (fun t => t.q.count = 6 ∧ t.q.illegal = 1 ∧ t.q.phase = 1 ∧ t.q.stampA = ⟨1050, true⟩ ∧
      t.out = [.outcome .applied, .outcome .debounced]) = true := by decide

/-- PRG4 under `split`: a `QRESET` between the consumer's load of 5 and its store of 6 is lost. -/
theorem test_split_race : answers (Host.Core.run Sys2Proof.core 3
      (fed { running 5 0 2 (.inEdge [] .accepted) with params := params .split }
        [.consumer (levels .low .high), .command .foreground (encode .qreset) .whole, .consumer quiet]))
    (fun t => t.q.count = 6 ∧ t.q.illegal = 0 ∧ t.q.phase = 1) = true := by decide

/-- PRG4, the illegal counter: loaded as 2, it ends at 3. -/
theorem test_split_race_illegal : answers (Host.Core.run Sys2Proof.core 3
      (fed { running 5 0 2 (.inEdge [] .accepted) with params := params .split }
        [.consumer (levels .high .high), .command .foreground (encode .qreset) .whole, .consumer quiet]))
    (fun t => t.q.count = 0 ∧ t.q.illegal = 3 ∧ t.q.phase = 3) = true := by decide

/-- R46: a host agent's command comes after its `QRESET` in flight, and sees the two counters at 0. -/
theorem test_host_program_order : answers (Host.Core.run Sys2Proof.core 2
      (fed (running 5 1 1 .blocked)
        [.command .foreground (encode .qreset) .illegalFirst, .command .foreground (encode .qrdCount) .whole]))
    (fun t => t.out = [.response .foreground ⟨.ok, .int 0⟩, .response .foreground ⟨.ok, .int 0⟩] ∧
      t.q.illegal = 0) = true := by decide

/-! ### Unit P -/

/-- P-BC row 1. -/
theorem test_pstep_back_calculation :
    answers (exec (.pstep 0x3FF0000000000000 0 0x3FD0000000000000) (withP (unitP 0x4000000000000000 0 0)))
      (fun t => t.p.lastU = num 0x4010000000000000 ∧ t.p.lastY = num 0x3FF0000000000000 ∧
        t.p.integ = num 0xBFE0000000000000 ∧ t.p.prevErr = num 0x3FF0000000000000 ∧
        t.out = [.response .foreground ⟨.ok, .num (num 0x3FF0000000000000)⟩]) = true := by decide +kernel

/-- P-BC row 1 over the rationals: `u = 4`, `y = 1`, the integrator -1/2. -/
theorem test_pstep_exact :
    (match exactStep
        { q := (running 5 1 1 .blocked).q, b := (running 5 1 1 .blocked).b, hosts := ⟨none, none, none⟩
          p := ⟨2, 4, 1 / 2, -1, 1, -8, 8, 2, 0, 0, 0, 0⟩
          params := Params.default 10000 100 exact.epsDt ⟨2, 4, 1 / 2, 1, -1, -8, 8, 2⟩
          inbox := [.command .foreground (encode (.pstep 0x3FF0000000000000 0 0x3FD0000000000000)) .whole]
          out := [], port := .foreground, fresh := 0 } with
      | .next t => decide (t.p = ⟨2, 4, 1 / 2, -1, 1, -8, 8, 2, -1 / 2, 1, 4, 1⟩ ∧
          t.out = [.response .foreground ⟨.ok, .num 1⟩])
      | .fault _ => false
      | .refused _ => false) = true := by decide +kernel

/-- P-BC row 8, from the state that row 7 leaves. -/
theorem test_pstep_row_8 :
    answers (exec (.pstep 0x3FF0000000000000 0x3FF8000000000000 0x3FD0000000000000)
        (withP (unitP 0x4000000000000000 0x3FEF400000000000 0)))
      (fun t => t.p.lastU = num 0xBFF0600000000000 ∧ t.p.integ = num 0x3FDF400000000000 ∧
        t.out = [.response .foreground ⟨.ok, .num (num 0xBFF0000000000000)⟩]) = true := by decide +kernel

/-- P-RST rows 1 and 2. -/
theorem test_preset_clamps_high : answers (exec (.preset 0x4024000000000000 0x3FE0000000000000) (withP (unitP 0 0 0)))
    (fun t => t.p.integ = num 0x4020000000000000 ∧ t.p.prevErr = num 0x3FE0000000000000 ∧
      Num64.toInt t.p.lastU = 0 ∧ Num64.toInt t.p.lastY = 0) = true := by decide +kernel
theorem test_preset_clamps_low : answers (exec (.preset 0xC022000000000000 0xC059000000000000) (withP (unitP 0 0 0)))
    (fun t => t.p.integ = num 0xC020000000000000 ∧ t.p.prevErr = num 0xC059000000000000) = true := by decide +kernel

/-- The gain setters, each to a value that no element held. -/
theorem test_psetKp : answers (exec (.psetKp 0x4008000000000000) (withP (unitP 0 0 0)))
    (fun t => t.p = { unitP 0 0 0 with kp := num 0x4008000000000000 }) = true := by decide
theorem test_psetKi : answers (exec (.psetKi 0x4008000000000000) (withP (unitP 0 0 0)))
    (fun t => t.p = { unitP 0 0 0 with ki := num 0x4008000000000000 }) = true := by decide
theorem test_psetKd : answers (exec (.psetKd 0x4008000000000000) (withP (unitP 0 0 0)))
    (fun t => t.p = { unitP 0 0 0 with kd := num 0x4008000000000000 }) = true := by decide
theorem test_psetAwGain : answers (exec (.psetAwGain 0xBFF0000000000000) (withP (unitP 0 0 0)))
    (fun t => t.p = unitP 0xBFF0000000000000 0 0) = true := by decide

/-- P-SET: `PSET_OUT_LIMITS 1, -1` is swapped; `PSET_INT_LIMITS 2, -2` is, and does not clamp the integrator. -/
theorem test_psetOutLimits : answers (exec (.psetOutLimits 0x3FF0000000000000 0xBFF0000000000000)
      (withP { unitP 0 0 0 with outMin := zeroNum, outMax := zeroNum }))
    (fun t => t.p = unitP 0 0 0) = true := by decide +kernel
theorem test_psetIntLimits : answers (exec (.psetIntLimits 0x4000000000000000 0xC000000000000000)
      (withP (unitP 0 0x4006000000000000 0)))
    (fun t => t.p.intMin = num 0xC000000000000000 ∧ t.p.intMax = num 0x4000000000000000 ∧
      t.p.integ = num 0x4006000000000000) = true := by decide +kernel

/-- PRG2: the three diagnostic reads. -/
theorem test_prd : [Instr.prdInteg, .prdLastU, .prdLastY].map (fun i => answers (exec i
      (withP { unitP 0 0x3FDF400000000000 0 with lastU := num 0xBFF0600000000000, lastY := num 0xBFF0000000000000 }))
        (fun t => words t = [match i with
          | .prdInteg => 0x3FDF400000000000
          | .prdLastU => 0xBFF0600000000000
          | _ => 0xBFF0000000000000])) = [true, true, true] := by decide

/-! ### Lifecycle -/

/-- R193 and R194, with the parameters of the vectors: the bounds are swapped into order. -/
theorem test_bconstruct : answers (exec (.bconstruct false .high .low) (inLife .unbuilt .absent))
    (fun t => t.q.count = 0 ∧ t.q.phase = 2 ∧ t.q.debounceUs = 100 ∧ t.q.stampA.valid = false ∧
      t.p.outMin = num 0xBFF0000000000000 ∧ t.p.outMax = num 0x3FF0000000000000 ∧ t.b.life = .running ∧
      t.b.consumer = .blocked ∧ t.out = [.outcome .constructed]) = true := by decide +kernel
/-- ENC: `BCONSTRUCT 1x`. -/
theorem test_bconstruct_read_fail : answers (exec (.bconstruct false .high .fail) (inLife .unbuilt .absent))
    (fun t => t.b.life = .failed ∧ t.b.source = .released ∧ t.out = [.outcome .constructFail]) = true := by decide

/-- PRG1 record 19: the consumer exits at its next iteration. -/
theorem test_bstop : answers (exec .bstop (running 5 1 1 .top))
    (fun t => t.b.life = .running ∧ answers (step (fed t [.consumer quiet])) (fun u => u.b.life = .stopped)) = true := by
  decide
theorem test_brelease : answers (exec .brelease (inLife .stopped .held))
    (fun t => t.b.life = .released ∧ t.b.source = .released) = true := by decide

/-- R178: a command to the second of two blocks leaves the first alone. -/
theorem test_platform :
    (match platformStep (1 : Fin 2) #v[running 5 1 1 .blocked,
        fed (running 7 1 1 .blocked) [.command .foreground (encode .qreset) .whole]] with
      | .next pl => decide (pl[0] = running 5 1 1 .blocked ∧ pl[1].q.count = 0)
      | .fault _ => false
      | .refused _ => false) = true := by decide

/-! ### Witnesses: encoding and the step -/

/-- A record of a reserved opcode. -/
abbrev reservedRecord : Record := 0x2B_0000000000000000_0000000000000000_0000000000000000#200

/-- A block with `QRD_COUNT` at the command port. -/
def asked (s : State) : State := fed s [.command .housekeeping (encode .qrdCount) .countFirst]

/-- A block two of whose host agents have a `QRESET` in flight. -/
def midReset (s : State) : State := { s with hosts := ⟨some .countLeft, some .illegalLeft, none⟩ }

theorem witness_DecodedRecordIsItsEncodingOnUsedSlots :
    decode 0x01_DEADBEEF00000000_0000000000000001_FFFFFFFFFFFFFFFF#200 = .ok .qrdCount := by rfl

theorem witness_UnusedSlotsAreIgnored :
    decode 0x22_4000000000000000_0000000000000000_0000000000000000#200 = .ok (.psetKp 0x4000000000000000) ∧
    Record.op 0x22_4000000000000000_0000000000000001_FFFFFFFFFFFFFFFF#200 = 0x22#8 ∧
    Record.slotA 0x22_4000000000000000_0000000000000001_FFFFFFFFFFFFFFFF#200 = 0x4000000000000000#64 ∧
    usesA (.psetKp 0x4000000000000000) = true ∧ usesB (.psetKp 0x4000000000000000) = false ∧
    usesC (.psetKp 0x4000000000000000) = false := by decide

theorem witness_ReservedOpcodesAreRejected :
    (fed (running 5 1 1 .blocked) [.command .housekeeping reservedRecord .whole]).inbox =
      [.command .housekeeping reservedRecord .whole] ∧ inFlight .housekeeping (running 5 1 1 .blocked) = none ∧
    observable (running 5 1 1 .blocked) = true ∧ commandOf reservedRecord = none := by decide

/-- At another pace than `whole`: a block not ready, one with a `QRESET` of the same agent in flight. -/
theorem witness_AdmissionOfCommands_notReady :
    (asked (inLife .failed .absent)).inbox = [.command .housekeeping (encode .qrdCount) .countFirst] ∧
    observable (asked (inLife .failed .absent)) = false := by decide
theorem witness_AdmissionOfCommands_illegal :
    commandOf reservedRecord = none ∧ commandOf (encode (.qsetDebounce 0x100000000)) = some (.qsetDebounce 0x100000000) ∧
    Instr.wf (params .rmw) (.qsetDebounce 0x100000000) = false := by decide
theorem witness_AdmissionOfCommands_ok :
    observable (asked (midReset (inLife .stopped .held))) = true ∧ commandOf (encode .qrdCount) = some .qrdCount ∧
    Instr.wf (params .rmw) .qrdCount = true ∧ ∃ t, step (asked (midReset (inLife .stopped .held))) = .next t :=
  ⟨by decide, by decide, by decide, _, rfl⟩

/-- The ends of `S(32)` and `U(32)`. -/
theorem witness_ResponsesHaveTheirForm_values :
    1 ≤ (params .rmw).wCnt ∧ -2 ^ ((params .rmw).wCnt - 1) ≤ (-0x80000000 : Int) ∧
    (0x7FFFFFFF : Int) < 2 ^ ((params .rmw).wCnt - 1) ∧ 0xFFFFFFFF < 2 ^ (params .rmw).wIll := by decide
theorem witness_ResponsesHaveTheirForm_rejected :
    ∃ t, step (asked (inLife .failed .absent)) = .next t ∧ .response .housekeeping ⟨.notReady, .int 0⟩ ∈ t.out :=
  ⟨_, rfl, by decide⟩
theorem witness_ResponsesHaveTheirForm_environment :
    ∃ t, step (fed (running 5 1 1 .blocked) [.environment (encode .bstop)]) = .next t := ⟨_, rfl⟩

theorem witness_NumPatternsRoundTrip : numOfSlot 0x8000000000000000 = some ⟨true, 0⟩ := by decide

theorem witness_StepRunsTheDecodedOperation :
    (asked (midReset (running 5 1 1 .blocked))).inbox = [.command .housekeeping (encode .qrdCount) .countFirst] ∧
    decode (encode .qrdCount) = .ok .qrdCount ∧ Instr.kind .qrdCount = .command ∧
    observable (inLife .failed .absent) = false ∧ decode (encode .qreset) = .ok .qreset ∧
    inFlight .foreground (midReset (running 5 1 1 .blocked)) = some .countLeft ∧
    inFlight .housekeeping (midReset (running 5 1 1 .blocked)) = some .illegalLeft ∧
    inFlight .orchestrator (midReset (running 5 1 1 .blocked)) = none ∧
    decode (encode (.qedge .A 1100 .low .low)) = .ok (.qedge .A 1100 .low .low) ∧
    Instr.kind (.qedge .A 1100 .low .low) ≠ .command ∧ Instr.wf (params .rmw) (.qedge .A 1100 .low .low) = true :=
  ⟨rfl, rfl, rfl, rfl, rfl, rfl, rfl, rfl, rfl, by decide, by decide⟩

theorem witness_ParametersNeverChange : ∃ t, step (asked (running 5 1 1 .blocked)) = .next t := ⟨_, rfl⟩

theorem inv_running : (running 5 1 1 .blocked).Inv := by
  refine ⟨?_, ?_, ?_, ?_, ?_, ?_, ?_, ?_⟩
  · exact ⟨by decide, by decide, by decide, by decide, by decide⟩
  · exact ⟨by decide, by decide, by decide⟩
  · exact ⟨by decide, by decide, by decide⟩
  · show (_ : Nat) < 4; decide
  · unfold State.BoundsOrdered; show _ ≤ _ ∧ _ ≤ _; constructor <;> decide +kernel
  · show (0 : Int) < _; decide +kernel
  · exact ⟨rfl, by decide⟩
  · trivial

theorem witness_EveryStepKeepsTheInvariant :
    (running 5 1 1 .blocked).Inv ∧ ∃ t, step (running 5 1 1 .blocked) = .next t := ⟨inv_running, _, rfl⟩

theorem witness_LifecycleTransitions :
    (∃ t, step (fed (inLife .unbuilt .absent) [.environment (encode (.bconstruct false .high .low))]) = .next t) ∧
    (∃ t, step (fed (inLife .unbuilt .absent) [.environment (encode (.bconstruct true .low .low))]) = .next t ∧
      t.b.life = .failed) ∧
    (∃ t, step (fed (inLife .stopped .held) [.environment (encode .brelease)]) = .next t ∧ t.b.life = .released) :=
  ⟨⟨_, rfl⟩, ⟨_, rfl, rfl⟩, ⟨_, rfl, rfl⟩⟩

/-- A `RUNNING` block that was stopped while its consumer has a whole wake before it. -/
def stoppedInWake : State :=
  { running 5 1 1 .gone with
    b := { life := .running, run := false, source := .held, joining := false, consumer := .inEdge [.B] .accepted }
    hosts := ⟨some .countLeft, some .illegalLeft, none⟩ }

theorem witness_StoppedConsumerExits :
    stoppedInWake.Inv ∧ stoppedInWake.inbox = [] ∧ stoppedInWake.b.life = .running ∧ stoppedInWake.b.run = false := by
  refine ⟨⟨?_, ?_, ?_, ?_, ?_, ?_, ?_, ?_⟩, rfl, rfl, rfl⟩
  · exact ⟨by decide, by decide, by decide, by decide, by decide⟩
  · exact ⟨by decide, by decide, by decide⟩
  · exact ⟨by decide, by decide, by decide⟩
  · show (_ : Nat) < 4; decide
  · unfold State.BoundsOrdered; show _ ≤ _ ∧ _ ≤ _; constructor <;> decide +kernel
  · show (0 : Int) < _; decide +kernel
  · exact ⟨rfl, by decide⟩
  · exact ⟨by decide, trivial⟩

theorem witness_OnlyUnorderedValuesAreRefused :
    exec (.psetKp 0x7FF0000000000000) (running 5 1 1 .blocked) = .refused .unorderedNum := by rfl

theorem witness_StepFaultsOnlyOnNoStimulus :
    stimulusOf (params .rmw) reservedRecord = none ∧
    step (fed (running 5 1 1 .blocked) [.environment reservedRecord]) = .fault .notAStimulus := ⟨by decide, by rfl⟩

theorem witness_CommandsWriteOnlyTheirElements :
    Instr.kind .qreset = .command ∧ ∃ t, exec .qreset (running 5 1 1 .blocked) = .next t := ⟨rfl, _, rfl⟩

theorem witness_UnitsDoNotInterfere :
    (ofUnitP (.psetKp 0) = true ∧ ∃ t, exec (.psetKp 0) (running 5 1 1 .blocked) = .next t) ∧
    (ofUnitP .qreset = false ∧ Instr.kind .qreset ≠ .lifecycle ∧
      ∃ t, exec .qreset (running 5 1 1 .blocked) = .next t) ∧
    ∃ pl', platformStep (1 : Fin 2) #v[running 5 1 1 .blocked, asked (running 5 1 1 .blocked)] = .next pl' :=
  ⟨⟨by decide, _, rfl⟩, ⟨by decide, by decide, _, rfl⟩, _, rfl⟩

/-! ### Witnesses: unit Q -/

theorem witness_ReadCommandsAnswerAndChangeNothing :
    observable (running 5 1 1 .blocked) = true ∧ observable (inLife .stopped .held) = true ∧
    observable (inLife .unbuilt .absent) = false ∧ observable (inLife .failed .absent) = false ∧
    observable (inLife .released .released) = false := by decide

theorem witness_QresetZeroesBothCounters : observable (running 123 3 4 .blocked) = true := by decide

theorem witness_QresetIsTwoStores :
    inFlight .foreground (running 5 1 1 .blocked) = none ∧ observable (running 5 1 1 .blocked) = true ∧
    decode (encode .qreset) = .ok .qreset ∧
    inFlight .foreground { running 5 1 1 .blocked with hosts := ⟨some .illegalLeft, none, none⟩ } = some .illegalLeft ∧
    inFlight .foreground { running 5 1 1 .blocked with hosts := ⟨some .countLeft, none, none⟩ } = some .countLeft :=
  ⟨rfl, rfl, rfl, rfl, rfl⟩

theorem witness_QsetDebounceStoresTheInterval :
    observable (running 5 1 1 .blocked) = true ∧ (0xFFFFFFFF#64 : Slot).toNat < 2 ^ (params .rmw).wDb ∧
    2 ^ (params .rmw).wDb ≤ (0x100000000#64 : Slot).toNat := by decide

/-- Both ends of the range of each counter. -/
theorem witness_CountersWrap :
    1 ≤ (params .rmw).wCnt ∧ (0x7FFFFFFF : Int) = 2 ^ ((params .rmw).wCnt - 1) - 1 ∧
    (-0x80000000 : Int) = -2 ^ ((params .rmw).wCnt - 1) ∧ 0xFFFFFFFF < 2 ^ (params .rmw).wIll ∧
    0xFFFFFFFF + 1 = 2 ^ (params .rmw).wIll := by decide

/-- The boundaries of the three classes of timestamps, with `lastTs[A] = 1000` and `debounce_us = 100`. -/
theorem witness_EdgeTooSoonIsDebounced :
    (running 5 1 1 .blocked).b.life = .running ∧ edgeRest .A (running 5 1 1 .blocked) = some [] ∧
    tooSoon .A 1000 (running 5 1 1 .blocked) ∧ tooSoon .A 1099 (running 5 1 1 .blocked) := by
  unfold tooSoon; decide
theorem witness_EdgeWithFailedReadIsDropped :
    (running 5 1 1 (.servicing [.B, .A])).b.life = .running ∧
    edgeRest .B (running 5 1 1 (.servicing [.B, .A])) = some [.A] ∧
    inTime .B 0 (running 5 1 1 (.servicing [.B, .A])) := by
  unfold inTime; decide
theorem witness_EdgeInTimeMakesTheTableStep :
    (running 5 1 1 .top).b.life = .running ∧ edgeRest .A (running 5 1 1 .top) = some [] ∧
    inTime .A 1100 (running 5 1 1 .top) ∧ ¬ inTime .A 1099 (running 5 1 1 .top) := by
  unfold inTime; decide
theorem witness_EdgeRunningBackwardsIsEitherWay :
    (running 5 1 1 .blocked).b.life = .running ∧ edgeRest .A (running 5 1 1 .blocked) = some [] ∧
    ranBackwards .A 999 (running 5 1 1 .blocked) ∧ ¬ ranBackwards .A 1000 (running 5 1 1 .blocked) := by
  unfold ranBackwards; decide

/-- A stopped block whose consumer looks at `B.run = 0` before it reads an event. -/
def stoppedAtTop : State :=
  { running 5 1 1 .top with
    b := { life := .running, run := false, source := .held, joining := false, consumer := .top } }

theorem witness_EdgeInTheOtherConsumerStates :
    stoppedInWake.b.life = .running ∧
    (stoppedAtTop.b.life = .running ∧ stoppedAtTop.NoEdgeInFlight ∧ stoppedAtTop.b.consumer ≠ .gone ∧
      edgeRest .A stoppedAtTop = none) ∧
    (inLife .stopped .held).b.life ≠ .running ∧
    stoppedInWake.b.consumer = .inEdge [.B] .accepted ∧ tooSoon .A 1050 stoppedInWake :=
  ⟨rfl, ⟨rfl, fun _ _ h => (by cases h), by decide, rfl⟩, by decide, rfl, by unfold tooSoon; decide⟩

/-- An applied edge, one that is debounced, a `QRESET` and a construction: each class of change. -/
theorem witness_UnitQInvariants :
    (running 5 0 1 .blocked).NoEdgeInFlight ∧
    (∃ t, exec (.qedge .A 1100 .high .low) (running 5 0 1 .blocked) = .next t ∧ t.q.phase = 2) ∧
    (∃ t, exec (.qedge .A 1099 .high .low) (running 5 0 1 .blocked) = .next t ∧ t.out = [.outcome .debounced]) ∧
    (∃ t, exec .qreset (running 5 0 1 .blocked) = .next t ∧ t.q.count = 0) ∧
    (inLife .unbuilt .absent).NoEdgeInFlight ∧
    (∃ t, exec (.bconstruct false .high .low) (inLife .unbuilt .absent) = .next t ∧ t.q.phase = 2) :=
  ⟨fun _ _ h => (by cases h), ⟨_, rfl, by decide⟩, ⟨_, rfl, by decide⟩, ⟨_, rfl, by decide⟩,
    fun _ _ h => (by cases h), _, rfl, by decide⟩

/-- Two cycles, each event just in time on its channel: the interval is 100. -/
def twoCycles : List CycleTimes := [⟨1100, 1150, 1200, 1250⟩, ⟨1300, 1350, 1400, 1450⟩]

theorem witness_CleanCyclesCountFourEach :
    let s := running 5 0 1 .blocked
    s.b.life = .running ∧ s.b.run = true ∧ s.b.consumer = .blocked ∧ loadPhase s = 0 ∧ Params.Admitted s.params ∧
    s.CountersInRange ∧
    (spaced s.q.debounceUs s.q.stampB (oddTimes s.params twoCycles) ∧
      spaced s.q.debounceUs s.q.stampA (evenTimes s.params twoCycles)) ∧
    (spaced s.q.debounceUs s.q.stampA (oddTimes s.params twoCycles) ∧
      spaced s.q.debounceUs s.q.stampB (evenTimes s.params twoCycles)) := by
  refine ⟨rfl, rfl, rfl, rfl, ⟨by decide, by decide, by decide, by decide, by decide⟩,
    ⟨by decide, by decide, by decide⟩, ⟨?_, ?_⟩, ?_, ?_⟩ <;> simp only [twoCycles, oddTimes, evenTimes, List.flatMap_cons,
      List.flatMap_nil, List.cons_append, List.nil_append, spaced] <;> decide

/-- Every event of the two cycles is accepted, and they count 8. -/
theorem test_clean_cycles : answers (execAll (twoCycles.flatMap forwardCycle) (running 5 0 1 .blocked))
    (fun t => t.q.count = 13 ∧ t.q.illegal = 1 ∧ t.q.phase = 0 ∧ .outcome .debounced ∉ t.out) = true := by decide
theorem test_clean_cycles_back : answers (execAll (twoCycles.flatMap backwardCycle) (running 5 0 1 .blocked))
    (fun t => t.q.count = -3 ∧ t.q.illegal = 1 ∧ t.q.phase = 0 ∧ .outcome .debounced ∉ t.out) = true := by decide

theorem witness_SplitAgreesWithRmwUndisturbed :
    (running 5 0 1 .blocked).NoEdgeInFlight ∧
    ∃ t, exec (.qedge .A 1100 .high .low) { running 5 0 1 .blocked with params := params .rmw } = .next t :=
  ⟨fun _ _ h => (by cases h), _, rfl⟩

/-- The consumer under `split`, its edge at this stage, from phase `00`. -/
def splitAt (stage : EdgeStage) (l : List Stimulus) : State :=
  fed { running 5 0 2 (.inEdge [] stage) with params := params .split } l

/-- The answers `00`, `01` and `11` from phase `00`; and `QRESET` between a load and its store (PRG4), in states that
the invariant admits. -/
theorem witness_SplitTableStepIsLoadThenStore :
    (phaseOf .low .low = some (loadPhase (splitAt .accepted [.consumer quiet])) ∧
      (∃ new, phaseOf .low .high = some new ∧ qtab (loadPhase (splitAt .accepted [])) new ≠ 0) ∧
      ∃ new, phaseOf .high .high = some new ∧ illegalStep (loadPhase (splitAt .accepted [])) new = true) ∧
    (splitAt (.countLoaded 5 1 1) [.command .foreground (encode .qreset) .whole, .consumer quiet]).params.update = .split ∧
    inFlight .foreground (splitAt (.countLoaded 5 1 1) []) = none ∧ decode (encode .qreset) = .ok .qreset ∧
    (splitAt (.countLoaded 5 1 1) []).b.life = .running ∧
    (splitAt (.countLoaded 5 1 1) []).StageCoherent (.countLoaded 5 1 1) ∧
    (splitAt (.illegalLoaded 2 3) []).StageCoherent (.illegalLoaded 2 3) :=
  ⟨⟨rfl, ⟨_, rfl, by decide⟩, _, rfl, by decide⟩, rfl, rfl, rfl, rfl, ⟨rfl, by decide, by decide⟩, rfl, by decide⟩

theorem witness_RmwResetKeepsLaterEdgesOnly :
    let s := running 5 0 2 (.inEdge [] .accepted)
    inFlight .foreground s = none ∧ decode (encode .qreset) = .ok .qreset ∧ s.params.update = .rmw ∧
    s.b.life = .running ∧ s.b.consumer = .inEdge [] .accepted ∧ phaseOf .low .high = some 1 :=
  ⟨rfl, rfl, rfl, rfl, rfl, rfl⟩

/-- One state for each clause of the loop; the event of the last two is `QEDGE A` at 1099 and at 1100. -/
theorem witness_ConsumerLoop :
    (stoppedAtTop.b.life = .running ∧ stoppedAtTop.b.consumer = .top ∧ stoppedAtTop.b.run = false) ∧
    ((running 5 1 1 .top).b.consumer = .top ∧ (running 5 1 1 .top).b.run = true) ∧
    (running 5 1 1 .blocked).b.consumer = .blocked ∧
    (running 5 1 1 (.servicing [.A])).b.consumer = .servicing [.A] ∧
    tooSoon .A 1099 (running 5 1 1 (.servicing [.A])) ∧ inTime .A 1100 (running 5 1 1 (.servicing [.A])) ∧
    (running 5 1 1 (.inEdge [.B] .accepted)).b.consumer = .inEdge [.B] .accepted ∧ phaseOf .low .fail = none ∧
    phaseOf .low .low = some 0 ∧ (running 5 1 1 (.inEdge [.B] .accepted)).params.update = .rmw := by
  unfold tooSoon inTime; decide

/-! ### Witnesses: unit P -/

theorem witness_SaturationStaysInBounds :
    Num64.toInt (num 0xBFF0000000000000) ≤ Num64.toInt (num 0x3FF0000000000000) ∧
    Num64.toInt (num 0xC000000000000000) < Num64.toInt (num 0xBFF0000000000000) ∧
    Num64.toInt (num 0x3FF0000000000000) < Num64.toInt (num 0x4000000000000000) := by decide +kernel

/-- Back-calculation: `PSTEP 1, 0, 0.25` from an integrator of 2 (41_pid.md R128): `u = 6`, `i1 = 1/2`. -/
theorem witness_PstepComputesTheControlLaw_back_calculation :
    commandTerms (numSys 0) Config.epsDt (unitP 0x4000000000000000 0x4000000000000000 0) (num 0x3FF0000000000000)
      (num 0) (num 0x3FD0000000000000) (num 0x3FD0000000000000) (num 0x3FF0000000000000) (num 0x4018000000000000) ∧
    integratorUpdate (numSys 0) (unitP 0x4000000000000000 0x4000000000000000 0) (num 0x3FF0000000000000)
      (num 0x4018000000000000) (num 0x3FF0000000000000) (num 0x3FD0000000000000) (num 0x3FE0000000000000) := by
  refine ⟨⟨by decide +kernel, by decide +kernel, num 0x4000000000000000, num 0x3FF0000000000000,
      num 0x3FE0000000000000, num 0x4000000000000000, num 0x4010000000000000, by decide +kernel, by decide +kernel,
      by decide +kernel, by decide +kernel, by decide +kernel, by decide +kernel⟩,
    .inl ⟨by decide +kernel, num 0x4010000000000000, num 0xC014000000000000, num 0xC024000000000000,
      num 0xC018000000000000, num 0xBFF8000000000000, by decide +kernel, by decide +kernel, by decide +kernel,
      by decide +kernel, by decide +kernel, by decide +kernel⟩⟩

/-- Conditional integration: the same step skips at `u = 6`, and with a bound of 8 it integrates `4 * 1 * 0.25`. -/
theorem witness_PstepComputesTheControlLaw_conditional :
    integratorUpdate (numSys 0) (unitP 0 0x4000000000000000 0) (num 0x3FF0000000000000) (num 0x4018000000000000)
      (num 0x3FF0000000000000) (num 0x3FD0000000000000) (num 0x4000000000000000) ∧
    integratorUpdate (numSys 0) { unitP 0 0x4000000000000000 0 with outMax := num 0x4020000000000000 }
      (num 0x3FF0000000000000) (num 0x4018000000000000) (num 0x4018000000000000) (num 0x3FD0000000000000)
      (num 0x4008000000000000) := by
  refine ⟨.inr (.inl ⟨by decide +kernel, .inl ⟨by decide +kernel, by decide +kernel⟩, by decide +kernel⟩),
    .inr (.inr ⟨by decide +kernel, ?_, num 0x4010000000000000, num 0x3FF0000000000000, by decide +kernel,
      by decide +kernel, by decide +kernel⟩)⟩
  decide +kernel

/-- An infinite operand; an error that overflows; an ordered operand. -/
theorem witness_UnorderedValuesAreRefused :
    observable (running 5 1 1 .blocked) = true ∧
    (0x7FF0000000000000 ∈ numOperands (.psetKp 0x7FF0000000000000) ∧ numOfSlot 0x7FF0000000000000 = none) ∧
    (∀ v ∈ numOperands (.psetKp 0), numOfSlot v ≠ none) :=
  ⟨by decide, by decide, List.forall_mem_singleton.mpr (by decide)⟩
theorem witness_UnorderedValuesAreRefused_overflow :
    ¬ ∃ h e u i1, commandTerms (numSys 0) Config.epsDt (unitP 0 0 0) (num 0x7FEFFFFFFFFFFFFF) (num 0xFFEFFFFFFFFFFFFF)
        (num 0x3FD0000000000000) h e u ∧
      integratorUpdate (numSys 0) (unitP 0 0 0) e u (sat (numSys 0) u (unitP 0 0 0).outMin (unitP 0 0 0).outMax) h i1 := by
  rintro ⟨h, e, u, i1, ⟨_, he, _⟩, _⟩
  have hn : (numSys 0).sub 0 (num 0x7FEFFFFFFFFFFFFF) (num 0xFFEFFFFFFFFFFFFF) = none := by decide +kernel
  rw [hn] at he
  cases he

theorem witness_UnitPInvariants :
    (withP (unitP 0x4000000000000000 0 0)).BoundsOrdered ∧
    observable (withP (unitP 0x4000000000000000 0 0)) = true ∧
    ∃ t, exec (.pstep 0x3FF0000000000000 0 0x3FD0000000000000) (withP (unitP 0x4000000000000000 0 0)) = .next t :=
  ⟨⟨by decide +kernel, by decide +kernel⟩, by decide,
    (next_of_answers test_pstep_back_calculation).imp fun _ h => h.1⟩

/-- P-CI rows 3 and 5 in this configuration: saturated high with a positive error, low with a negative one. -/
theorem witness_SaturatedStepSkipsIntegration :
    (∃ t, exec (.pstep 0x3FF0000000000000 0 0x3FD0000000000000) (withP (unitP 0 0x3FE0000000000000 0)) = .next t ∧
      (fun t : State => decide (Num64.toInt (num 0x3FF0000000000000) ≤ Num64.toInt t.p.lastU ∧
        0 < Num64.toInt t.p.prevErr)) t = true) ∧
    (∃ t, exec (.pstep 0 0x3FF0000000000000 0x3FD0000000000000) (withP (unitP 0 0x3FE0000000000000 0)) = .next t ∧
      (fun t : State => decide (Num64.toInt t.p.lastU ≤ Num64.toInt (num 0xBFF0000000000000) ∧
        Num64.toInt t.p.prevErr < 0)) t = true) ∧
    Num64.toInt (unitP 0 0x3FE0000000000000 0).kaw ≤ 0 ∧
    Num64.toInt (unitP 0 0x3FE0000000000000 0).intMin ≤ Num64.toInt (num 0x3FE0000000000000) ∧
    Num64.toInt (num 0x3FE0000000000000) ≤ Num64.toInt (unitP 0 0x3FE0000000000000 0).intMax :=
  ⟨next_of_answers (by decide +kernel), next_of_answers (by decide +kernel), by decide +kernel, by decide +kernel,
    by decide +kernel⟩

/-- `dt` of positive zero, of negative zero and of -5. -/
theorem witness_NonPositiveDtIsReplaced :
    (running 5 1 1 .blocked).EpsPositive ∧ numOfSlot 0 = some ⟨false, 0⟩ ∧
    numOfSlot 0x8000000000000000 = some ⟨true, 0⟩ ∧ Num64.toInt ⟨true, 0⟩ ≤ 0 ∧
    Num64.toInt (num 0xC014000000000000) ≤ 0 :=
  ⟨inv_running.2.2.2.2.2.1, by decide, by decide, by decide, by decide +kernel⟩

theorem witness_NegativeGainActsAsZero :
    observable (withP (unitP 0xBFF0000000000000 0x3FF8000000000000 0)) = true ∧
    Num64.toInt (unitP 0xBFF0000000000000 0x3FF8000000000000 0).kaw ≤ 0 ∧ Num64.toInt zeroNum = 0 ∧
    ∃ t, exec (.pstep 0x3FF0000000000000 0 0x3FD0000000000000)
      (withP (unitP 0xBFF0000000000000 0x3FF8000000000000 0)) = .next t ∧ (fun _ : State => true) t = true :=
  ⟨by decide, by decide +kernel, by decide, next_of_answers (by decide +kernel)⟩

/-- A seed below, in and above the bounds. -/
theorem witness_PresetSeedsUnitP :
    observable (withP (unitP 0 0 0)) = true ∧
    numOfSlot 0xC022000000000000 = some (num 0xC022000000000000) ∧ numOfSlot 0 = some (num 0) ∧
    Num64.toInt (num 0xC022000000000000) < Num64.toInt (unitP 0 0 0).intMin ∧
    Num64.toInt (unitP 0 0 0).intMax < Num64.toInt (num 0x4024000000000000) := by decide +kernel

theorem witness_GainSettersWriteTheirElement :
    observable (running 5 1 1 .blocked) = true ∧
    numOfSlot 0x4008000000000000 = some (num 0x4008000000000000) := by decide

/-- A pair in order, one in the wrong order, one of equal bounds. -/
theorem witness_BoundSettersSwapTheirPair :
    observable (running 5 1 1 .blocked) = true ∧ numOfSlot 0x3FF0000000000000 = some (num 0x3FF0000000000000) ∧
    numOfSlot 0xBFF0000000000000 = some (num 0xBFF0000000000000) ∧
    Num64.toInt (num 0xBFF0000000000000) < Num64.toInt (num 0x3FF0000000000000) := by decide +kernel

/-- Each operation gives a value; `1 + 2^-53` is a tie between 1, whose pattern is even, and its successor. -/
theorem witness_OperationsRoundToNearestEven :
    Num64.add false (num 0x3FF0000000000000) (num 0x3CA0000000000000) = some (num 0x3FF0000000000000) ∧
    |Num64.toInt (num 0x3FF0000000000000) - (Num64.toInt (num 0x3FF0000000000000) + Num64.toInt (num 0x3CA0000000000000))| =
      |Num64.toInt (num 0x3FF0000000000001) -
        (Num64.toInt (num 0x3FF0000000000000) + Num64.toInt (num 0x3CA0000000000000))| ∧
    Num64.toInt (num 0x3FF0000000000001) ≠ Num64.toInt (num 0x3FF0000000000000) ∧
    Num64.sub false (num 0x3FF0000000000000) (num 0x4000000000000000) = some (num 0xBFF0000000000000) ∧
    Num64.mul false (num 0x4008000000000000) (num 0x3FE0000000000000) = some (num 0x3FF8000000000000) ∧
    Num64.div false (num 0x3FF0000000000000) (num 0x4008000000000000) = some (num 0x3FD5555555555555) := by
  decide +kernel

/-- The greatest value plus half its last place is out; the largest sum below that is the greatest value. The same
difference, and a product, a quotient and a zero divisor at the bound. -/
theorem witness_OperationsOverflowAtTheBinary64Bound :
    (Num64.add false (num 0x7FEFFFFFFFFFFFFF) (num 0x7C90000000000000) = none ∧
      Num64.add false (num 0x7FEFFFFFFFFFFFFF) (num 0x7C8FFFFFFFFFFFFF) = some (num 0x7FEFFFFFFFFFFFFF)) ∧
    (Num64.sub false (num 0x7FEFFFFFFFFFFFFF) (num 0xFC90000000000000) = none ∧
      Num64.sub false (num 0x7FEFFFFFFFFFFFFF) (num 0xFC8FFFFFFFFFFFFF) = some (num 0x7FEFFFFFFFFFFFFF)) ∧
    (Num64.mul false (num 0x7FEFFFFFFFFFFFFF) (num 0x3FF0000000000001) = none ∧
      Num64.mul false (num 0x7FEFFFFFFFFFFFFF) (num 0xBFF0000000000000) = some (num 0xFFEFFFFFFFFFFFFF)) ∧
    (Num64.div false (num 0x7FEFFFFFFFFFFFFF) (num 0x3FEFFFFFFFFFFFFF) = none ∧
      Num64.div false (num 0x7FEFFFFFFFFFFFFF) (num 0xBFF0000000000000) = some (num 0xFFEFFFFFFFFFFFFF) ∧
      Num64.div false (num 0x3FF0000000000000) (num 0x8000000000000000) = none) := by
  decide +kernel

theorem witness_ZeroSignsDoNotMatter :
    sameValues { unitP 0 0 0 with kp := ⟨true, 0⟩ } { unitP 0 0 0 with kp := ⟨false, 0⟩ } ∧
    Num64.toInt ⟨true, 0⟩ = Num64.toInt ⟨false, 0⟩ ∧
    (pidStep (binary64 fun _ => true) Config.epsDt { unitP 0 0 0 with kp := ⟨true, 0⟩ } (num 0x3FF0000000000000)
      ⟨true, 0⟩ (num 0x3FD0000000000000)).isSome = true ∧
    pidStep (binary64 fun _ => true) Config.epsDt { unitP 0 0 0 with kp := ⟨true, 0⟩ } (num 0x7FEFFFFFFFFFFFFF)
      (num 0xFFEFFFFFFFFFFFFF) (num 0x3FD0000000000000) = none := by
  unfold sameValues; decide +kernel

/-- P-BC row 1 over the rationals. -/
def exactP : UnitP Rat := ⟨2, 4, 1 / 2, -1, 1, -8, 8, 2, 0, 0, 0, 0⟩

theorem witness_ExactStepNeverFails :
    ((0 : Rat) < exact.epsDt ∧ exactP.kaw > 0) ∧ exact.ofSlot 0x3FF0000000000000 = some 1 ∧
    exact.ofSlot 0xBFD0000000000000 = some (-1 / 4) ∧ exact.ofSlot 0 = some 0 := by decide +kernel
/-- Conditional integration under the exact instance: the step of row 1 skips, and with `dt = 0` from a lower error it
integrates `4 * 1/4 * 10^-6`. -/
theorem witness_ExactStepNeverFails_conditional :
    pidStep exact exact.epsDt { exactP with kaw := 0 } 1 0 (1 / 4) =
      some { exactP with kaw := 0, integ := 0, prevErr := 1, lastU := 4, lastY := 1 } ∧
    pidStep exact exact.epsDt { exactP with kaw := -1, kd := 0 } (1 / 4) 0 0 =
      some { exactP with kaw := -1, kd := 0, integ := 1 / 1000000, prevErr := 1 / 4, lastU := 1 / 2, lastY := 1 / 2 } := by
  decide +kernel
theorem witness_ExactBackCalculationContracts :
    (0 : Rat) < 1 / 1000000 ∧ 0 < exactP.kaw ∧
    pidStep exact (1 / 1000000) exactP 1 0 (1 / 4) =
      some { exactP with integ := -1 / 2, prevErr := 1, lastU := 4, lastY := 1 } ∧ exactP.kaw * (1 / 4) < 2 := by
  decide +kernel

/-! ### Witnesses: lifecycle -/

theorem witness_ConstructionInitialises : (inLife .unbuilt .absent).b.life = .unbuilt := by decide
theorem witness_ConstructionFailure :
    State.reset.b.life = .unbuilt ∧ ((true = true ∨ Level.low = .fail) ∧ (false = true ∨ Level.fail = .fail)) := by
  refine ⟨rfl, ?_⟩; decide
theorem witness_ConstructionHappensOnce : (running 5 1 1 .blocked).b.life ≠ .unbuilt := by decide
theorem witness_StopClearsTheRunningFlag :
    (running 5 1 1 .blocked).b.life = .running ∧ (inLife .stopped .held).b.life ≠ .running := by decide

theorem witness_ExitedConsumerNeverReturns :
    (fed (inLife .stopped .held) [.consumer quiet]).inbox = [.consumer quiet] ∧
    (inLife .stopped .held).b.life = .stopped ∧
    ∃ t, Host.Core.run Sys2Proof.core 1 (inLife .stopped .held) = .next t := ⟨rfl, rfl, _, rfl⟩

/-- A `RUNNING` and a `STOPPED` block with a waiting release, and a released one. -/
theorem witness_ReleaseFollowsTheConsumersExit :
    (running 5 1 1 .blocked).b.life = .running ∧ (inLife .stopped .held).b.life = .stopped ∧
    (inLife .failed .absent).b.life = .failed ∧ (inLife .released .released).b.life = .released ∧
    Instr.kind .qrdCount = .command ∧
    (fed { inLife .stopped .held with b := { (inLife .stopped .held).b with joining := true } } [.join]).b.joining =
      true := by decide

theorem witness_PseudoOperationsExpand :
    observable (running 5 1 1 .blocked) = true ∧ numOfSlot 0x4000000000000000 = some (num 0x4000000000000000) ∧
    numOfSlot 0x4010000000000000 = some (num 0x4010000000000000) ∧
    numOfSlot 0x3FE0000000000000 = some (num 0x3FE0000000000000) := by decide

/-- One wake: A at 1100 with levels `11`, then B at 50 with levels `10`. -/
def woken : State :=
  fed (running 5 1 1 .blocked)
    [.consumer (ready .aThenB), .consumer (event 1100), .consumer (levels .high .high), .consumer (event 50),
      .consumer (levels .high .low)]

/-- The same events, B served first: both steps are illegal. -/
def wokenB : State :=
  fed (running 5 1 1 .blocked)
    [.consumer (ready .bThenA), .consumer (event 50), .consumer (levels .high .low), .consumer (event 1100),
      .consumer (levels .low .high)]

theorem witness_WakeIsItsTwoEdges :
    woken.b.life = .running ∧ woken.b.run = true ∧ woken.b.consumer = .blocked ∧ woken.params.update = .rmw ∧
    inTime .A 1100 woken ∧ inTime .B 50 woken ∧
    (∃ t, Host.Core.run Sys2Proof.core 5 woken = .next t ∧ t.q.count = 7) ∧
    ∃ t, Host.Core.run Sys2Proof.core 5 wokenB = .next t ∧ t.q.illegal = 3 :=
  ⟨rfl, rfl, rfl, rfl, by unfold inTime; decide, by unfold inTime; decide, ⟨_, rfl, by decide⟩, _, rfl, by decide⟩

end Sys2Proof.Tests
end

section
/-! PROOFS. The family 00_scope.md: no step changes a parameter (R7), and the two counters wrap (R8). -/

namespace Sys2Proof.Machine

variable {α : Type}

/-! ### What every next state of an outcome meets -/

/-- The next state that the outcome answers, if any, meets `P`. -/
def NextMeets (P : State α → Prop) : Host.Outcome (State α) Fault Refusal → Prop
  | .next t => P t
  | .fault _ => True
  | .refused _ => True

theorem NextMeets.of_eq_next {P : State α → Prop} {o : Host.Outcome (State α) Fault Refusal} {t : State α}
    (h : NextMeets P o) (ho : o = .next t) : P t := by
  subst ho
  exact h

@[simp] theorem nextMeets_next {P : State α → Prop} {t : State α} : NextMeets P (.next t) ↔ P t := Iff.rfl

@[simp] theorem nextMeets_refused {P : State α → Prop} {r : Refusal} : NextMeets P (.refused r) := trivial

@[simp] theorem nextMeets_finishP {P : State α → Prop} {p : UnitP α} {s : State α} :
    NextMeets P (finishP p s) ↔ P (respondOk (.int 0) (setUnitP p s)) := Iff.rfl

theorem nextMeets_admitted {P : State α → Prop} {s : State α} {k : State α → Host.Outcome (State α) Fault Refusal}
    (hrun : observable s = true → NextMeets P (k s)) (hreject : P (respond .notReady (.int 0) s)) :
    NextMeets P (admitted s k) := by
  cases ho : observable s with
  | true => rw [admitted_of_observable ho]; exact hrun ho
  | false => rw [admitted_of_not_observable ho]; exact hreject

theorem nextMeets_withNum {P : State α → Prop} {N : NumSys α} {v : Slot}
    {k : α → Host.Outcome (State α) Fault Refusal} (hrun : ∀ x, N.ofSlot v = some x → NextMeets P (k x)) :
    NextMeets P (withNum N v k) := by
  cases hv : N.ofSlot v with
  | some x => rw [withNum_some hv]; exact hrun x hv
  | none => rw [withNum_none hv]; exact nextMeets_refused

/-! ### The parameters under each event of an agent -/

@[simp] theorem rejectCommand_params (s : State α) : (rejectCommand s).params = s.params := by
  unfold rejectCommand
  split_ifs <;> simp

@[simp] theorem serveHost_params (g : HostAgent) (s : State α) : (serveHost g s).params = s.params := by
  simp [serveHost]

@[simp] theorem joinRelease_params (s : State α) : (joinRelease s).params = s.params := by
  unfold joinRelease
  split_ifs <;> simp

@[simp] theorem advanceEdge_params (lvA lvB : Level) (s : State α) : (advanceEdge lvA lvB s).params = s.params := by
  simp [advanceEdge_frame]

@[simp] theorem finishEdge_params (lvA lvB : Level) (s : State α) : (finishEdge lvA lvB s).params = s.params := by
  simp [finishEdge]

@[simp] theorem settleEdge_params (s : State α) : (settleEdge s).params = s.params := by
  simp [settleEdge_frame]

@[simp] theorem beginEdge_params (ch : Channel) (ts : Slot) (rest : List Channel) (s : State α) :
    (beginEdge ch ts rest s).params = s.params := by
  simp [beginEdge_frame]

@[simp] theorem wholeEdge_params (ch : Channel) (ts : Slot) (lvA lvB : Level) (rest : List Channel) (s : State α) :
    (wholeEdge ch ts lvA lvB rest s).params = s.params := by
  simp [wholeEdge]

@[simp] theorem edgeFromTop_params (ch : Channel) (ts : Slot) (lvA lvB : Level) (s : State α) :
    (edgeFromTop ch ts lvA lvB s).params = s.params := by
  unfold edgeFromTop
  split_ifs <;> simp

@[simp] theorem reachEdge_params (ch : Channel) (ts : Slot) (lvA lvB : Level) (s : State α) :
    (reachEdge ch ts lvA lvB s).params = s.params := by
  unfold reachEdge
  cases s.b.consumer with
  | servicing rest =>
    cases h : restAfter ch rest with
    | none => simp [h]
    | some later => simp [h]
  | gone | top | blocked | inEdge => simp

@[simp] theorem consumerTurn_params (a : Answers) (s : State α) : (consumerTurn a s).params = s.params := by
  by_cases hlife : s.b.life ≠ .running
  · rw [consumerTurn_not_running a hlife]
  rw [consumerTurn, if_neg hlife]
  cases s.b.consumer with
  | top => cases h : s.b.run <;> simp
  | servicing rest =>
    cases rest with
    | nil => simp
    | cons ch rest => cases a.event <;> simp
  | gone | blocked | inEdge => simp

@[simp] theorem quietTurn_params (s : State α) : (quietTurn s).params = s.params := by
  unfold quietTurn
  cases busyHost s <;> simp

/-! ### The parameters under each operation -/

theorem admitted_params {s : State α} {k : State α → Host.Outcome (State α) Fault Refusal}
    (hrun : NextMeets (fun t => t.params = s.params) (k s)) :
    NextMeets (fun t => t.params = s.params) (admitted s k) :=
  nextMeets_admitted (fun _ => hrun) rfl

theorem pstepOver_params (N : Nat → NumSys α) (ref meas dt : Slot) (s : State α) :
    NextMeets (fun t => t.params = s.params) (pstepOver N ref meas dt s) := by
  apply admitted_params
  refine nextMeets_withNum fun r _ => nextMeets_withNum fun m _ => nextMeets_withNum fun d _ => ?_
  cases pidStep (N s.fresh) s.params.epsDt s.p r m d with
  | none => exact nextMeets_refused
  | some p => exact nextMeets_next.mpr (by simp)

theorem qsetDebounceOver_params (us : Slot) (s : State α) :
    NextMeets (fun t => t.params = s.params) (qsetDebounceOver us s) := by
  apply admitted_params
  cases u1OfSlot s.params us <;> exact nextMeets_next.mpr (by simp)

theorem qedgeOver_params (ch : Channel) (ts : Slot) (lvA lvB : Level) (s : State α) :
    NextMeets (fun t => t.params = s.params) (qedgeOver ch ts lvA lvB s) := by
  unfold qedgeOver
  split_ifs <;> exact nextMeets_next.mpr (by simp)

theorem bconstructOver_params (N : Nat → NumSys α) (acquireFails : Bool) (lvA lvB : Level) (s : State α) :
    NextMeets (fun t => t.params = s.params) (bconstructOver N acquireFails lvA lvB s) := by
  unfold bconstructOver
  split_ifs
  · exact nextMeets_next.mpr rfl
  · cases phaseOf lvA lvB <;> exact nextMeets_next.mpr rfl
  · exact nextMeets_next.mpr rfl

theorem bstopOver_params (s : State α) : NextMeets (fun t => t.params = s.params) (bstopOver s) := by
  unfold bstopOver
  split_ifs <;> exact nextMeets_next.mpr rfl

theorem breleaseOver_params (s : State α) : NextMeets (fun t => t.params = s.params) (breleaseOver s) := by
  unfold breleaseOver
  cases s.b.life <;> exact nextMeets_next.mpr rfl

/-- No operation changes a parameter, over any number system (00_scope.md R7). -/
theorem execOver_params (N : Nat → NumSys α) (i : Instr) (s : State α) :
    NextMeets (fun t => t.params = s.params) (execOver N i s) := by
  cases i with
  | qedge ch ts lvA lvB => exact qedgeOver_params ch ts lvA lvB s
  | qsetDebounce us => exact qsetDebounceOver_params us s
  | pstep ref meas dt => exact pstepOver_params N ref meas dt s
  | bconstruct acquireFails lvA lvB => exact bconstructOver_params N acquireFails lvA lvB s
  | bstop => exact bstopOver_params s
  | brelease => exact breleaseOver_params s
  | qrdCount | qrdIllegal | qreset | prdInteg | prdLastU | prdLastY =>
    apply admitted_params
    simp
  | psetKp | psetKi | psetKd | psetAwGain =>
    apply admitted_params
    exact nextMeets_withNum fun _ _ => by simp
  | preset | psetOutLimits | psetIntLimits =>
    apply admitted_params
    exact nextMeets_withNum fun _ _ => nextMeets_withNum fun _ _ => by simp

/-- A step changes no parameter if no operation does. -/
theorem stepWith_params {run : Instr → State α → Host.Outcome (State α) Fault Refusal}
    (hrun : ∀ i s, NextMeets (fun t => t.params = s.params) (run i s)) {s t : State α}
    (h : stepWith run s = .next t) : t.params = s.params := by
  obtain ⟨-, rfl⟩ | ⟨g, w, pace, rest, -, hserve⟩ | ⟨w, i, rest, -, -, hexec⟩ | ⟨a, rest, -, rfl⟩ |
    ⟨g, rest, -, rfl⟩ | ⟨rest, -, rfl⟩ := stepWith_cases h
  · simp
  · obtain ⟨-, rfl⟩ | ⟨left, -, -, rfl⟩ | ⟨i, -, hexec⟩ := serveCommand_cases hserve
    · simp
    · simp
    · simpa using (hrun i _).of_eq_next hexec
  · simpa using (hrun i _).of_eq_next hexec
  · simp
  · simp
  · simp

/-- Settles O10: every event of an agent and every operation keeps the parameters, so a step does. -/
theorem parametersNeverChange : Obligations.ParametersNeverChange := by
  intro s t h
  rw [step_eq_stepOver] at h
  exact stepWith_params (execOver_params numSys) h

/-! ### The counters wrap -/

theorem dvd_wrapS_sub (n : Nat) (z : Int) : (2 ^ n : Int) ∣ wrapS n z - z := by
  simpa [wrapS] using Int.dvd_bmod_sub_self (x := z) (m := 2 ^ n)

/-- `S(n)` has one member only in each class modulo `2^n` (00_scope.md R8). -/
theorem wrapS_unique {n : Nat} (hn : 1 ≤ n) {y z : Int} (hlo : -2 ^ (n - 1) ≤ y) (hhi : y < 2 ^ (n - 1))
    (hdvd : (2 ^ n : Int) ∣ y - z) : wrapS n z = y := by
  obtain ⟨hwlo, hwhi⟩ := wrapS_range hn z
  have hpow : (2 : Int) ^ n = 2 * 2 ^ (n - 1) := (mul_pow_sub_one (by omega) 2).symm
  have hdiff : (2 ^ n : Int) ∣ wrapS n z - y := by simpa using (dvd_wrapS_sub n z).sub hdvd
  have hsmall : |wrapS n z - y| < 2 ^ n := abs_lt.mpr ⟨by omega, by omega⟩
  exact sub_eq_zero.mp (Int.eq_zero_of_abs_lt_dvd hdiff hsmall)

/-- One above the upper end of `S(n)` is its lower end. -/
theorem wrapS_above_top {n : Nat} (hn : 1 ≤ n) : wrapS n (2 ^ (n - 1)) = -2 ^ (n - 1) := by
  have hpow : (2 : Int) ^ n = 2 * 2 ^ (n - 1) := (mul_pow_sub_one (by omega) 2).symm
  have hpos : (0 : Int) < 2 ^ (n - 1) := by positivity
  exact wrapS_unique hn le_rfl (by omega) ⟨-1, by omega⟩

/-- One below the lower end of `S(n)` is its upper end. -/
theorem wrapS_below_bottom {n : Nat} (hn : 1 ≤ n) : wrapS n (-2 ^ (n - 1) - 1) = 2 ^ (n - 1) - 1 := by
  have hpow : (2 : Int) ^ n = 2 * 2 ^ (n - 1) := (mul_pow_sub_one (by omega) 2).symm
  have hpos : (0 : Int) < 2 ^ (n - 1) := by positivity
  exact wrapS_unique hn (by omega) (by omega) ⟨1, by omega⟩

/-- The illegal counter goes up by one, and from the upper end of `U(W_ILL)` to 0 (10_state.md R13). -/
theorem wrapIllegal_eq {p : Params α} {v : Nat} (hv : v < 2 ^ p.wIll) :
    wrapIllegal p v = if v + 1 = 2 ^ p.wIll then 0 else v + 1 := by
  unfold wrapIllegal wrapU
  split_ifs with hend
  · rw [hend, Nat.mod_self]
  · exact Nat.mod_eq_of_lt (by omega)

/-- Settles O25: range and congruence of the position counter, from which its two ends follow, and the illegal
counter's wrap. -/
theorem countersWrap : Obligations.CountersWrap := by
  refine ⟨fun p v d hw => ?_, fun p v hv => wrapIllegal_eq hv⟩
  obtain ⟨hlo, hhi⟩ := wrapS_range hw (v + d)
  refine ⟨hlo, hhi, dvd_wrapS_sub p.wCnt (v + d), ?_, ?_⟩
  · rintro rfl rfl
    simpa [wrapCount] using wrapS_above_top hw
  · rintro rfl rfl
    simpa [wrapCount, sub_eq_add_neg] using wrapS_below_bottom hw

end Sys2Proof.Machine
end

section
/-! PROOFS. The family 10_state.md, its foundation: what each operation leaves when it completes, and what one
`QEDGE` and one table step do. The statements of the family are read off these. -/

namespace Sys2Proof.Machine

variable {α : Type}

/-! ### What an operation leaves when it completes -/

/-- What the read commands answer. -/
def readValue (s : State α) : Instr → Option (Val α)
  | .qrdCount => some (.int s.q.count)
  | .qrdIllegal => some (.int s.q.illegal)
  | .prdInteg => some (.num s.p.integ)
  | .prdLastU => some (.num s.p.lastU)
  | .prdLastY => some (.num s.p.lastY)
  | _ => none

/-- The states in which an operation, run whole from `s`, can end. -/
inductive Leaves (N : Nat → NumSys α) (s : State α) : Instr → State α → Prop
  | notReady {i : Instr} (hkind : i.kind = .command) (hobs : observable s = false) :
      Leaves N s i (respond .notReady (.int 0) s)
  | illegalCmd {us : Slot} (hobs : observable s = true) (hfits : u1OfSlot s.params us = none) :
      Leaves N s (.qsetDebounce us) (respond .illegalCmd (.int 0) s)
  | read {i : Instr} {v : Val α} (hkind : i.kind = .command) (hobs : observable s = true)
      (hread : readValue s i = some v) : Leaves N s i (respondOk v s)
  | qreset (hobs : observable s = true) :
      Leaves N s .qreset (respondOk (.int 0) (storeIllegal 0 (storeCount 0 s)))
  | qsetDebounce {us : Slot} {d : Nat} (hobs : observable s = true) (hfits : u1OfSlot s.params us = some d) :
      Leaves N s (.qsetDebounce us) (respondOk (.int 0) (storeDebounce d s))
  | qedge {ch : Channel} {ts : Slot} {lvA lvB : Level} (hlife : s.b.life = .running) :
      Leaves N s (.qedge ch ts lvA lvB) (reachEdge ch ts lvA lvB (settleEdge s))
  | pstep {ref meas dt : Slot} {r m d : α} {p : UnitP α} (hobs : observable s = true)
      (href : (N s.fresh).ofSlot ref = some r) (hmeas : (N s.fresh).ofSlot meas = some m)
      (hdt : (N s.fresh).ofSlot dt = some d) (hstep : pidStep (N s.fresh) s.params.epsDt s.p r m d = some p) :
      Leaves N s (.pstep ref meas dt) (respondOk (.num p.lastY) (useFree pidStepPlaces (setUnitP p s)))
  | preset {iseed eseed : Slot} {i e : α} (hobs : observable s = true) (hi : (N s.fresh).ofSlot iseed = some i)
      (he : (N s.fresh).ofSlot eseed = some e) :
      Leaves N s (.preset iseed eseed)
        (respondOk (.int 0) (setUnitP (pidPreset (N s.fresh) i e s.p) (useFree 2 s)))
  | psetKp {v : Slot} {x : α} (hobs : observable s = true) (hx : (N s.fresh).ofSlot v = some x) :
      Leaves N s (.psetKp v) (respondOk (.int 0) (setUnitP { s.p with kp := x } s))
  | psetKi {v : Slot} {x : α} (hobs : observable s = true) (hx : (N s.fresh).ofSlot v = some x) :
      Leaves N s (.psetKi v) (respondOk (.int 0) (setUnitP { s.p with ki := x } s))
  | psetKd {v : Slot} {x : α} (hobs : observable s = true) (hx : (N s.fresh).ofSlot v = some x) :
      Leaves N s (.psetKd v) (respondOk (.int 0) (setUnitP { s.p with kd := x } s))
  | psetAwGain {v : Slot} {x : α} (hobs : observable s = true) (hx : (N s.fresh).ofSlot v = some x) :
      Leaves N s (.psetAwGain v) (respondOk (.int 0) (setUnitP { s.p with kaw := x } s))
  | psetOutLimits {a b : Slot} {x y : α} (hobs : observable s = true) (hx : (N s.fresh).ofSlot a = some x)
      (hy : (N s.fresh).ofSlot b = some y) :
      Leaves N s (.psetOutLimits a b) (respondOk (.int 0) (setUnitP (setOutLimits (N s.fresh) x y s.p) s))
  | psetIntLimits {a b : Slot} {x y : α} (hobs : observable s = true) (hx : (N s.fresh).ofSlot a = some x)
      (hy : (N s.fresh).ofSlot b = some y) :
      Leaves N s (.psetIntLimits a b) (respondOk (.int 0) (setUnitP (setIntLimits (N s.fresh) x y s.p) s))
  | constructed {lvA lvB : Level} {phase : BitVec 2} (hlife : s.b.life = .unbuilt)
      (hphase : phaseOf lvA lvB = some phase) :
      Leaves N s (.bconstruct false lvA lvB) (constructed (N s.fresh) phase s)
  | notAcquired {lvA lvB : Level} (hlife : s.b.life = .unbuilt) :
      Leaves N s (.bconstruct true lvA lvB) (constructFailed s.b.source s)
  | levelsFailed {lvA lvB : Level} (hlife : s.b.life = .unbuilt) (hphase : phaseOf lvA lvB = none) :
      Leaves N s (.bconstruct false lvA lvB) (constructFailed .released s)
  | bstop (hlife : s.b.life = .running) : Leaves N s .bstop { s with b := { s.b with run := false } }
  | released (hlife : s.b.life = .stopped) : Leaves N s .brelease (release s)
  | joining (hlife : s.b.life = .running) : Leaves N s .brelease { s with b := { s.b with joining := true } }
  | noEffect {i : Instr} (hkind : i.kind ≠ .command) : Leaves N s i s

theorem nextMeets_leaves_admitted {N : Nat → NumSys α} {s : State α} {i : Instr}
    {k : State α → Host.Outcome (State α) Fault Refusal} (hkind : i.kind = .command)
    (hrun : observable s = true → NextMeets (Leaves N s i) (k s)) : NextMeets (Leaves N s i) (admitted s k) := by
  cases ho : observable s with
  | true => rw [admitted_of_observable ho]; exact hrun ho
  | false => rw [admitted_of_not_observable ho]; exact nextMeets_next.mpr (.notReady hkind ho)

theorem pstepOver_leaves (N : Nat → NumSys α) (ref meas dt : Slot) (s : State α) :
    NextMeets (Leaves N s (.pstep ref meas dt)) (pstepOver N ref meas dt s) := by
  apply nextMeets_leaves_admitted (by rfl)
  intro ho
  refine nextMeets_withNum fun r hr => nextMeets_withNum fun m hm => nextMeets_withNum fun d hd => ?_
  cases hp : pidStep (N s.fresh) s.params.epsDt s.p r m d with
  | none => exact nextMeets_refused
  | some p => exact nextMeets_next.mpr (.pstep ho hr hm hd hp)

theorem qsetDebounceOver_leaves (N : Nat → NumSys α) (us : Slot) (s : State α) :
    NextMeets (Leaves N s (.qsetDebounce us)) (qsetDebounceOver us s) := by
  apply nextMeets_leaves_admitted (by rfl)
  intro ho
  cases hd : u1OfSlot s.params us with
  | none => simpa [rejectCommand, ho] using Leaves.illegalCmd ho hd
  | some d => exact nextMeets_next.mpr (.qsetDebounce ho hd)

theorem qedgeOver_leaves (N : Nat → NumSys α) (ch : Channel) (ts : Slot) (lvA lvB : Level) (s : State α) :
    NextMeets (Leaves N s (.qedge ch ts lvA lvB)) (qedgeOver ch ts lvA lvB s) := by
  unfold qedgeOver
  split_ifs with hlife
  · exact nextMeets_next.mpr (.qedge hlife)
  · exact nextMeets_next.mpr (.noEffect (by simp [Instr.kind]))

theorem bconstructOver_leaves (N : Nat → NumSys α) (acquireFails : Bool) (lvA lvB : Level) (s : State α) :
    NextMeets (Leaves N s (.bconstruct acquireFails lvA lvB)) (bconstructOver N acquireFails lvA lvB s) := by
  unfold bconstructOver
  split_ifs with hlife hacquire
  · subst hacquire
    exact nextMeets_next.mpr (.notAcquired hlife)
  · obtain rfl : acquireFails = false := by simpa using hacquire
    cases hphase : phaseOf lvA lvB with
    | none => exact nextMeets_next.mpr (.levelsFailed hlife hphase)
    | some phase => exact nextMeets_next.mpr (.constructed hlife hphase)
  · exact nextMeets_next.mpr (.noEffect (by simp [Instr.kind]))

theorem bstopOver_leaves (N : Nat → NumSys α) (s : State α) : NextMeets (Leaves N s .bstop) (bstopOver s) := by
  unfold bstopOver
  split_ifs with hlife
  · exact nextMeets_next.mpr (.bstop hlife)
  · exact nextMeets_next.mpr (.noEffect (by simp [Instr.kind]))

theorem breleaseOver_leaves (N : Nat → NumSys α) (s : State α) :
    NextMeets (Leaves N s .brelease) (breleaseOver s) := by
  unfold breleaseOver
  cases hlife : s.b.life with
  | stopped => exact nextMeets_next.mpr (.released hlife)
  | running => exact nextMeets_next.mpr (.joining hlife)
  | unbuilt | released | failed => exact nextMeets_next.mpr (.noEffect (by simp [Instr.kind]))

/-- Every operation that completes ends in one of the states of `Leaves`, over any number system. -/
theorem execOver_leaves (N : Nat → NumSys α) (i : Instr) (s : State α) :
    NextMeets (Leaves N s i) (execOver N i s) := by
  cases i with
  | qedge ch ts lvA lvB => exact qedgeOver_leaves N ch ts lvA lvB s
  | qsetDebounce us => exact qsetDebounceOver_leaves N us s
  | pstep ref meas dt => exact pstepOver_leaves N ref meas dt s
  | bconstruct acquireFails lvA lvB => exact bconstructOver_leaves N acquireFails lvA lvB s
  | bstop => exact bstopOver_leaves N s
  | brelease => exact breleaseOver_leaves N s
  | qrdCount | qrdIllegal | prdInteg | prdLastU | prdLastY =>
    apply nextMeets_leaves_admitted (by rfl)
    exact fun ho => .read rfl ho rfl
  | qreset =>
    apply nextMeets_leaves_admitted (by rfl)
    exact fun ho => .qreset ho
  | psetKp v =>
    apply nextMeets_leaves_admitted (by rfl)
    exact fun ho => nextMeets_withNum fun _ hx => .psetKp ho hx
  | psetKi v =>
    apply nextMeets_leaves_admitted (by rfl)
    exact fun ho => nextMeets_withNum fun _ hx => .psetKi ho hx
  | psetKd v =>
    apply nextMeets_leaves_admitted (by rfl)
    exact fun ho => nextMeets_withNum fun _ hx => .psetKd ho hx
  | psetAwGain v =>
    apply nextMeets_leaves_admitted (by rfl)
    exact fun ho => nextMeets_withNum fun _ hx => .psetAwGain ho hx
  | preset iseed eseed =>
    apply nextMeets_leaves_admitted (by rfl)
    exact fun ho => nextMeets_withNum fun _ hx => nextMeets_withNum fun _ hy => .preset ho hx hy
  | psetOutLimits a b =>
    apply nextMeets_leaves_admitted (by rfl)
    exact fun ho => nextMeets_withNum fun _ hx => nextMeets_withNum fun _ hy => .psetOutLimits ho hx hy
  | psetIntLimits a b =>
    apply nextMeets_leaves_admitted (by rfl)
    exact fun ho => nextMeets_withNum fun _ hx => nextMeets_withNum fun _ hy => .psetIntLimits ho hx hy

theorem leaves_of_exec {i : Instr} {s t : State} (h : exec i s = .next t) : Leaves numSys s i t :=
  (execOver_leaves numSys i s).of_eq_next (exec_eq_execOver i s ▸ h)

/-! ### What the operations of unit P write -/

/-- `PSTEP` writes four elements of unit P: the clamped integrator, the error, and the command before and after its
clamp (41_pid.md R121). -/
theorem pidStep_eq {N : NumSys α} {eps : α} {p p' : UnitP α} {r m d : α} (h : pidStep N eps p r m d = some p') :
    ∃ e u i, p' = { p with
      integ := sat N i p.intMin p.intMax
      prevErr := e
      lastU := u
      lastY := sat N u p.outMin p.outMax } := by
  simp only [pidStep, Option.bind_eq_bind, Option.bind_eq_some_iff] at h
  obtain ⟨e, -, u, -, i, -, hp⟩ := h
  exact ⟨e, u, i, (Option.some.inj hp).symm⟩

/-- `PSET_OUT_LIMITS` writes the two output bounds, its operands in one order or the other (41_pid.md R133). -/
theorem setOutLimits_eq (N : NumSys α) (a b : α) (p : UnitP α) :
    ∃ lo hi, setOutLimits N a b p = { p with outMin := lo, outMax := hi } ∧
      ((N.lt b a = true ∧ lo = b ∧ hi = a) ∨ (N.lt b a = false ∧ lo = a ∧ hi = b)) := by
  unfold setOutLimits
  split_ifs with hlt
  · exact ⟨b, a, rfl, .inl ⟨hlt, rfl, rfl⟩⟩
  · exact ⟨a, b, rfl, .inr ⟨by simpa using hlt, rfl, rfl⟩⟩

/-- `PSET_INT_LIMITS` writes the two integrator bounds, its operands in one order or the other (41_pid.md R134). -/
theorem setIntLimits_eq (N : NumSys α) (a b : α) (p : UnitP α) :
    ∃ lo hi, setIntLimits N a b p = { p with intMin := lo, intMax := hi } ∧
      ((N.lt b a = true ∧ lo = b ∧ hi = a) ∨ (N.lt b a = false ∧ lo = a ∧ hi = b)) := by
  unfold setIntLimits
  split_ifs with hlt
  · exact ⟨b, a, rfl, .inl ⟨hlt, rfl, rfl⟩⟩
  · exact ⟨a, b, rfl, .inr ⟨by simpa using hlt, rfl, rfl⟩⟩

/-- Settles O17: each command that completes is one of the updates of `Leaves`, and each of these writes the elements
of its own row of 10_state.md R32. -/
theorem commandsWriteOnlyTheirElements : Obligations.CommandsWriteOnlyTheirElements := by
  intro i s t hkind h
  cases leaves_of_exec h with
  | notReady | illegalCmd | read | qreset | qsetDebounce | preset | psetKp | psetKi | psetKd | psetAwGain =>
    simp [pidPreset]
  | pstep _ _ _ _ hstep =>
    obtain ⟨e, u, i, rfl⟩ := pidStep_eq hstep
    simp
  | @psetOutLimits _ _ x y =>
    obtain ⟨lo, hi, heq, -⟩ := setOutLimits_eq (numSys s.fresh) x y s.p
    simp [heq]
  | @psetIntLimits _ _ x y =>
    obtain ⟨lo, hi, heq, -⟩ := setIntLimits_eq (numSys s.fresh) x y s.p
    simp [heq]
  | qedge | constructed | notAcquired | levelsFailed | bstop | released | joining => cases hkind
  | noEffect hnot => exact absurd hkind hnot

end Sys2Proof.Machine
end

section
/-! PROOFS. The family 10_state.md: one table step, one `QEDGE` run whole, and where the consumer reads its event. -/

namespace Sys2Proof.Machine

variable {α : Type}

/-! ### One table step -/

/-- The three classes of the transition table (40_qdec.md R84): a count, an illegal step, no change. -/
theorem qtab_classes : ∀ old new : BitVec 2,
    (qtab old new ≠ 0 ∧ illegalStep old new = false ∧ new ≠ old) ∨
    (qtab old new = 0 ∧ illegalStep old new = true ∧ new ≠ old) ∨
    (qtab old new = 0 ∧ illegalStep old new = false ∧ new = old) := by
  decide

theorem qtab_range : ∀ old new : BitVec 2, qtab old new = 0 ∨ qtab old new = 1 ∨ qtab old new = -1 := by
  decide

/-- A table step counts, finds an illegal step, or changes nothing (40_qdec.md R85). -/
theorem tableStep_cases (new : BitVec 2) (s : State α) :
    (qtab (loadPhase s) new ≠ 0 ∧ tableLabel (loadPhase s) new = .applied ∧
      tableStep new s = storePhase new (addCount (qtab (loadPhase s) new) s)) ∨
    (qtab (loadPhase s) new = 0 ∧ illegalStep (loadPhase s) new = true ∧ tableLabel (loadPhase s) new = .illegal ∧
      tableStep new s = storePhase new (addIllegal s)) ∨
    (qtab (loadPhase s) new = 0 ∧ illegalStep (loadPhase s) new = false ∧
      tableLabel (loadPhase s) new = .noChange ∧ new = loadPhase s ∧ tableStep new s = s) := by
  obtain ⟨hq, hi, hn⟩ | ⟨hq, hi, hn⟩ | ⟨hq, hi, hn⟩ := qtab_classes (loadPhase s) new
  · exact .inl ⟨hq, by simp [tableLabel, hq], by simp [tableStep, hq, hi, hn]⟩
  · exact .inr (.inl ⟨hq, hi, by simp [tableLabel, hq, hi], by simp [tableStep, hq, hi, hn]⟩)
  · subst hn
    exact .inr (.inr ⟨hq, hi, by simp [tableLabel, hq, hi], rfl, by simp [tableStep, hq, hi]⟩)

@[simp] theorem loadPhase_storePhase (new : BitVec 2) (s : State α) : loadPhase (storePhase new s) = new := by
  revert new
  simp only [loadPhase, storePhase_q]
  decide

/-- After a table step the phase is the new one (40_qdec.md R85). -/
theorem loadPhase_tableStep (new : BitVec 2) (s : State α) : loadPhase (tableStep new s) = new := by
  obtain ⟨-, -, ht⟩ | ⟨-, -, -, ht⟩ | ⟨-, -, -, hnew, ht⟩ := tableStep_cases new s
  · rw [ht, loadPhase_storePhase]
  · rw [ht, loadPhase_storePhase]
  · rw [ht, hnew]

theorem tableStep_setConsumer (new : BitVec 2) (c : Consumer) (s : State α) :
    tableStep new (setConsumer c s) = setConsumer c (tableStep new s) := by
  have hload : loadPhase (setConsumer c s) = loadPhase s := rfl
  simp only [tableStep, hload]
  split_ifs <;> rfl

/-! ### One `QEDGE` run whole -/

theorem advanceEdge_of_noEdge {s : State α} (h : ∀ rest stage, s.b.consumer ≠ .inEdge rest stage) (lvA lvB : Level) :
    advanceEdge lvA lvB s = s := by
  unfold advanceEdge
  cases hc : s.b.consumer with
  | inEdge rest stage => exact absurd hc (h rest stage)
  | gone | top | blocked | servicing => rfl

theorem advanceEdge_readFail {lvA lvB : Level} {rest : List Channel} {s : State α}
    (hc : s.b.consumer = .inEdge rest .accepted) (hp : phaseOf lvA lvB = none) :
    advanceEdge lvA lvB s = endEdge .readFail rest s := by
  simp [advanceEdge, hc, hp]

theorem advanceEdge_rmw {lvA lvB : Level} {new : BitVec 2} {rest : List Channel} {s : State α}
    (hc : s.b.consumer = .inEdge rest .accepted) (hp : phaseOf lvA lvB = some new) (hu : s.params.update = .rmw) :
    advanceEdge lvA lvB s = endEdge (tableLabel (loadPhase s) new) rest (tableStep new s) := by
  simp [advanceEdge, hc, hp, hu]

theorem advanceEdge_split {lvA lvB : Level} {new : BitVec 2} {rest : List Channel} {s : State α}
    (hc : s.b.consumer = .inEdge rest .accepted) (hp : phaseOf lvA lvB = some new) (hu : s.params.update = .split) :
    advanceEdge lvA lvB s = splitLoad new rest s := by
  simp [advanceEdge, hc, hp, hu]

theorem afterChannel_ne_inEdge (l rest : List Channel) (stage : EdgeStage) :
    afterChannel l ≠ .inEdge rest stage := by
  cases l <;> simp [afterChannel]

/-- An edge that has ended has no event left. -/
@[simp] theorem advanceEdge_endEdge (lvA lvB : Level) (l : Label) (rest : List Channel) (s : State α) :
    advanceEdge lvA lvB (endEdge l rest s) = endEdge l rest s :=
  advanceEdge_of_noEdge (afterChannel_ne_inEdge rest) lvA lvB

/-- The control state of the consumer leaves no trace in an edge that has ended. -/
theorem endEdge_setConsumer (l : Label) (rest : List Channel) (c : Consumer) (s : State α) :
    endEdge l rest (setConsumer c s) = endEdge l rest s := rfl

/-- An accepted edge whose level read fails ends (40_qdec.md R86). -/
theorem finishEdge_readFail {lvA lvB : Level} (h : phaseOf lvA lvB = none) (rest : List Channel) (s : State α) :
    finishEdge lvA lvB (setConsumer (.inEdge rest .accepted) s) = endEdge .readFail rest s := by
  have hc : (setConsumer (.inEdge rest .accepted) s).b.consumer = .inEdge rest .accepted := rfl
  rw [finishEdge, advanceEdge_readFail hc h, advanceEdge_endEdge, endEdge_setConsumer]

/-- The load and the store of `split`, with no other event between them, are the table step (20_memory.md R44). -/
theorem advanceEdge_splitLoad (lvA lvB : Level) (new : BitVec 2) (rest : List Channel) (c : Consumer) (s : State α) :
    advanceEdge lvA lvB (splitLoad new rest (setConsumer c s)) =
      endEdge (tableLabel (loadPhase s) new) rest (tableStep new s) := by
  have hload : loadPhase (setConsumer c s) = loadPhase s := rfl
  obtain ⟨hq, hl, ht⟩ | ⟨hq, hi, hl, ht⟩ | ⟨hq, hi, hl, -, ht⟩ := tableStep_cases new s
  · simp only [splitLoad, hload, if_pos hq, hl, ht]
    rfl
  · simp only [splitLoad, hload, hq, ne_eq, not_true_eq_false, if_false, hi, if_true, hl, ht]
    rfl
  · simp only [splitLoad, hload, hq, ne_eq, not_true_eq_false, if_false, hi, Bool.false_eq_true, hl, ht,
      advanceEdge_endEdge]
    rfl

/-- An accepted edge whose levels are read makes the table step, under either update (40_qdec.md R85). -/
theorem finishEdge_accepted {lvA lvB : Level} {new : BitVec 2} (h : phaseOf lvA lvB = some new) (rest : List Channel)
    (s : State α) :
    finishEdge lvA lvB (setConsumer (.inEdge rest .accepted) s) =
      endEdge (tableLabel (loadPhase s) new) rest (tableStep new s) := by
  have hc : (setConsumer (.inEdge rest .accepted) s).b.consumer = .inEdge rest .accepted := rfl
  have hload : loadPhase (setConsumer (.inEdge rest .accepted) s) = loadPhase s := rfl
  cases hu : (setConsumer (.inEdge rest .accepted) s).params.update with
  | rmw =>
    rw [finishEdge, advanceEdge_rmw hc h hu, advanceEdge_endEdge, tableStep_setConsumer, endEdge_setConsumer, hload]
  | split => rw [finishEdge, advanceEdge_split hc h hu, advanceEdge_splitLoad]

/-- What a processed edge leaves before its outcome: its timestamp stored, one free value used (40_qdec.md R83). -/
def stamped (ch : Channel) (ts : Slot) (s : State α) : State α :=
  useFree 1 (storeStamp ch (edgeTime s.params ts) s)

theorem beginEdge_eq (ch : Channel) (ts : Slot) (rest : List Channel) (s : State α) :
    beginEdge ch ts rest s =
      if debounceTest (Config.freeVerdict s.fresh) ch (edgeTime s.params ts) s then
        endEdge .debounced rest (stamped ch ts s)
      else setConsumer (.inEdge rest .accepted) (stamped ch ts s) := rfl

theorem loadPhase_stamped (ch : Channel) (ts : Slot) (s : State α) : loadPhase (stamped ch ts s) = loadPhase s := by
  simp [loadPhase, stamped]

/-- The control state in which the consumer reads an event leaves no trace in what follows. -/
theorem wholeEdge_setConsumer (ch : Channel) (ts : Slot) (lvA lvB : Level) (rest : List Channel) (c : Consumer)
    (s : State α) : wholeEdge ch ts lvA lvB rest (setConsumer c s) = wholeEdge ch ts lvA lvB rest s := by
  have hbegin : beginEdge ch ts rest (setConsumer c s) = beginEdge ch ts rest s := by
    cases ch <;> rfl
  rw [wholeEdge, hbegin, wholeEdge]

/-- A `QEDGE` run whole stores its timestamp, and then is rejected, fails its level read, or makes the table step
(40_qdec.md R81 to R86). -/
theorem wholeEdge_cases (ch : Channel) (ts : Slot) (lvA lvB : Level) (rest : List Channel) (s : State α) :
    wholeEdge ch ts lvA lvB rest s = endEdge .debounced rest (stamped ch ts s) ∨
    wholeEdge ch ts lvA lvB rest s = endEdge .readFail rest (stamped ch ts s) ∨
    ∃ new, phaseOf lvA lvB = some new ∧ wholeEdge ch ts lvA lvB rest s =
      endEdge (tableLabel (loadPhase s) new) rest (tableStep new (stamped ch ts s)) := by
  rw [wholeEdge, beginEdge_eq]
  split_ifs
  · exact .inl (by rw [finishEdge, advanceEdge_endEdge, advanceEdge_endEdge])
  · cases hp : phaseOf lvA lvB with
    | none => exact .inr (.inl (finishEdge_readFail hp rest _))
    | some new => exact .inr (.inr ⟨new, rfl, by rw [finishEdge_accepted hp, loadPhase_stamped]⟩)

/-! ### Where the consumer reads its event -/

/-- The consumer comes to read the event where `edgeRest` says, or it exits, or there is none to read it
(40_qdec.md R80; 60_exceptions.md R176). -/
theorem reachEdge_cases (ch : Channel) (ts : Slot) (lvA lvB : Level) (s : State) :
    reachEdge ch ts lvA lvB s = s ∨
    (s.b.run = false ∧ reachEdge ch ts lvA lvB s = exitConsumer s) ∨
    ∃ rest, edgeRest ch s = some rest ∧ reachEdge ch ts lvA lvB s = wholeEdge ch ts lvA lvB rest s := by
  cases hc : s.b.consumer with
  | gone => exact .inl (by simp [reachEdge, hc])
  | inEdge rest stage => exact .inl (by simp [reachEdge, hc])
  | blocked => exact .inr (.inr ⟨[], by simp [edgeRest, hc], by simp [reachEdge, hc]⟩)
  | top =>
    cases hrun : s.b.run with
    | true => exact .inr (.inr ⟨[], by simp [edgeRest, hc, hrun], by simp [reachEdge, edgeFromTop, hc, hrun]⟩)
    | false => exact .inr (.inl ⟨rfl, by simp [reachEdge, edgeFromTop, hc, hrun]⟩)
  | servicing todo =>
    cases hlater : restAfter ch todo with
    | some later => exact .inr (.inr ⟨later, by simp [edgeRest, hc, hlater], by simp [reachEdge, hc, hlater]⟩)
    | none =>
      cases hrun : s.b.run with
      | true =>
        refine .inr (.inr ⟨[], by simp [edgeRest, hc, hlater, hrun], ?_⟩)
        simp [reachEdge, edgeFromTop, hc, hlater, hrun, wholeEdge_setConsumer]
      | false =>
        refine .inr (.inl ⟨rfl, ?_⟩)
        simp only [reachEdge, edgeFromTop, hc, hlater, setConsumer_b, hrun]
        rfl

end Sys2Proof.Machine
end

section
/-! PROOFS. The family 10_state.md: the bounds and the integrator of unit P (R25). -/

namespace Sys2Proof.Machine

/-- Both bound pairs are in order (10_state.md R25(c)). -/
def UnitP.Ordered (p : UnitP Num64) : Prop :=
  Num64.toInt p.outMin ≤ Num64.toInt p.outMax ∧ Num64.toInt p.intMin ≤ Num64.toInt p.intMax

theorem boundsOrdered_iff (s : State) : s.BoundsOrdered ↔ s.p.Ordered := Iff.rfl

/-- A value clamped to bounds in order lies in them (41_pid.md R124). -/
theorem sat_in_bounds (k : Nat) {lo hi : Num64} (h : Num64.toInt lo ≤ Num64.toInt hi) (v : Num64) :
    Num64.toInt lo ≤ Num64.toInt (sat (numSys k) v lo hi) ∧
      Num64.toInt (sat (numSys k) v lo hi) ≤ Num64.toInt hi := by
  simp only [sat, numSys_lt, decide_eq_true_eq]
  split_ifs with hlow hhigh
  · exact ⟨le_rfl, h⟩
  · exact ⟨h, le_rfl⟩
  · exact ⟨not_lt.mp hlow, not_lt.mp hhigh⟩

theorem setOutLimits_ordered (k : Nat) (a b : Num64) {p : UnitP Num64} (h : p.Ordered) :
    (setOutLimits (numSys k) a b p).Ordered := by
  obtain ⟨lo, hi, heq, ⟨hlt, rfl, rfl⟩ | ⟨hlt, rfl, rfl⟩⟩ := setOutLimits_eq (numSys k) a b p
  · rw [heq]
    exact ⟨le_of_lt (by simpa using hlt), h.2⟩
  · rw [heq]
    exact ⟨by simpa using hlt, h.2⟩

theorem setIntLimits_ordered (k : Nat) (a b : Num64) {p : UnitP Num64} (h : p.Ordered) :
    (setIntLimits (numSys k) a b p).Ordered := by
  obtain ⟨lo, hi, heq, ⟨hlt, rfl, rfl⟩ | ⟨hlt, rfl, rfl⟩⟩ := setIntLimits_eq (numSys k) a b p
  · rw [heq]
    exact ⟨h.1, le_of_lt (by simpa using hlt)⟩
  · rw [heq]
    exact ⟨h.1, by simpa using hlt⟩

theorem pidStep_ordered {k : Nat} {eps r m d : Num64} {p p' : UnitP Num64}
    (hstep : pidStep (numSys k) eps p r m d = some p') (h : p.Ordered) : p'.Ordered := by
  obtain ⟨e, u, i, rfl⟩ := pidStep_eq hstep
  exact h

/-- Construction puts both pairs in order, whatever `PID_INIT` (70_reset_and_hazards.md R193). -/
theorem constructP_ordered (k : Nat) (c : PidInit Num64) {p : UnitP Num64} (h : p.Ordered) :
    (constructP (numSys k) c p).Ordered :=
  setIntLimits_ordered k c.intA c.intB (setOutLimits_ordered k c.outA c.outB h)

end Sys2Proof.Machine
end

section
/-! PROOFS. The family 10_state.md: the units do not interfere (20_memory.md R54; 10_state.md R32). An operation that
runs alike whatever a unit holds leaves that unit alone. -/

namespace Sys2Proof.Machine

variable {α : Type}

/-- Unit Q gets new contents. -/
def setUnitQ (q : UnitQ) (s : State α) : State α := { s with q := q }

@[simp] theorem setUnitQ_p (q : UnitQ) (s : State α) : (setUnitQ q s).p = s.p := rfl
@[simp] theorem setUnitQ_params (q : UnitQ) (s : State α) : (setUnitQ q s).params = s.params := rfl
@[simp] theorem setUnitQ_fresh (q : UnitQ) (s : State α) : (setUnitQ q s).fresh = s.fresh := rfl

/-- The outcome with its next state, if any, changed by `f`. -/
def mapNext (f : State α → State α) :
    Host.Outcome (State α) Fault Refusal → Host.Outcome (State α) Fault Refusal
  | .next t => .next (f t)
  | .fault r => .fault r
  | .refused r => .refused r

theorem mapNext_next {f : State α → State α} {t : State α} : mapNext f (.next t) = .next (f t) := rfl

/-- Admission commutes with an update that neither decides it nor touches what is put out. -/
theorem admitted_mapNext {f : State α → State α} {s : State α}
    {k k' : State α → Host.Outcome (State α) Fault Refusal} (hobs : observable (f s) = observable s)
    (hreject : respond .notReady (.int 0) (f s) = f (respond .notReady (.int 0) s))
    (hrun : k' (f s) = mapNext f (k s)) : admitted (f s) k' = mapNext f (admitted s k) := by
  cases ho : observable s with
  | true => rw [admitted_of_observable ho, admitted_of_observable (hobs.trans ho), hrun]
  | false => rw [admitted_of_not_observable ho, admitted_of_not_observable (hobs.trans ho), hreject, mapNext_next]

theorem withNum_mapNext {f : State α → State α} {N : NumSys α} {v : Slot}
    {k k' : α → Host.Outcome (State α) Fault Refusal} (hrun : ∀ x, k' x = mapNext f (k x)) :
    withNum N v k' = mapNext f (withNum N v k) := by
  cases hv : N.ofSlot v with
  | some x => rw [withNum_some hv, withNum_some hv, hrun]
  | none =>
    rw [withNum_none hv, withNum_none hv]
    rfl

theorem admitted_setUnitQ {q : UnitQ} {s : State α} {k k' : State α → Host.Outcome (State α) Fault Refusal}
    (hrun : k' (setUnitQ q s) = mapNext (setUnitQ q) (k s)) :
    admitted (setUnitQ q s) k' = mapNext (setUnitQ q) (admitted s k) :=
  admitted_mapNext rfl rfl hrun

theorem admitted_setUnitP {p : UnitP α} {s : State α} {k k' : State α → Host.Outcome (State α) Fault Refusal}
    (hrun : k' (setUnitP p s) = mapNext (setUnitP p) (k s)) :
    admitted (setUnitP p s) k' = mapNext (setUnitP p) (admitted s k) :=
  admitted_mapNext rfl rfl hrun

/-! ### Unit P's operations and unit Q -/

/-- An operation of unit P runs alike whatever unit Q holds, over any number system. -/
theorem execOver_setUnitQ (N : Nat → NumSys α) {i : Instr} (hi : ofUnitP i = true) (q : UnitQ) (s : State α) :
    execOver N i (setUnitQ q s) = mapNext (setUnitQ q) (execOver N i s) := by
  cases i with
  | pstep ref meas dt =>
    simp only [execOver, pstepOver]
    apply admitted_setUnitQ
    refine withNum_mapNext fun r => withNum_mapNext fun m => withNum_mapNext fun d => ?_
    simp only [setUnitQ_p, setUnitQ_params, setUnitQ_fresh]
    cases pidStep (N s.fresh) s.params.epsDt s.p r m d <;> rfl
  | preset | psetOutLimits | psetIntLimits =>
    simp only [execOver, presetOver, psetOutLimitsOver, psetIntLimitsOver]
    apply admitted_setUnitQ
    exact withNum_mapNext fun _ => withNum_mapNext fun _ => rfl
  | psetKp | psetKi | psetKd | psetAwGain =>
    simp only [execOver]
    apply admitted_setUnitQ
    exact withNum_mapNext fun _ => rfl
  | prdInteg | prdLastU | prdLastY =>
    simp only [execOver]
    apply admitted_setUnitQ
    rfl
  | qrdCount | qrdIllegal | qreset | qsetDebounce | qedge | bconstruct | bstop | brelease =>
    simp [ofUnitP, opcode] at hi

/-! ### Unit Q's events and unit P -/

theorem setUnitP_self (s : State α) : setUnitP s.p s = s := rfl

theorem loadPhase_setUnitP (p : UnitP α) (s : State α) : loadPhase (setUnitP p s) = loadPhase s := rfl

theorem rejectCommand_setUnitP (p : UnitP α) (s : State α) :
    rejectCommand (setUnitP p s) = setUnitP p (rejectCommand s) := by
  have hobs : observable (setUnitP p s) = observable s := rfl
  simp only [rejectCommand, hobs]
  split_ifs <;> rfl

theorem endEdge_setUnitP (l : Label) (rest : List Channel) (p : UnitP α) (s : State α) :
    endEdge l rest (setUnitP p s) = setUnitP p (endEdge l rest s) := rfl

theorem tableStep_setUnitP (new : BitVec 2) (p : UnitP α) (s : State α) :
    tableStep new (setUnitP p s) = setUnitP p (tableStep new s) := by
  have hload : loadPhase (setUnitP p s) = loadPhase s := rfl
  simp only [tableStep, hload]
  split_ifs <;> rfl

theorem splitLoad_setUnitP (new : BitVec 2) (rest : List Channel) (p : UnitP α) (s : State α) :
    splitLoad new rest (setUnitP p s) = setUnitP p (splitLoad new rest s) := by
  have hload : loadPhase (setUnitP p s) = loadPhase s := rfl
  simp only [splitLoad, hload]
  split_ifs <;> rfl

theorem advanceEdge_setUnitP (lvA lvB : Level) (p : UnitP α) (s : State α) :
    advanceEdge lvA lvB (setUnitP p s) = setUnitP p (advanceEdge lvA lvB s) := by
  simp only [advanceEdge, setUnitP_b, setUnitP_params, loadPhase_setUnitP, tableStep_setUnitP, splitLoad_setUnitP,
    endEdge_setUnitP]
  cases s.b.consumer with
  | inEdge rest stage =>
    cases stage with
    | accepted =>
      cases phaseOf lvA lvB with
      | none => rfl
      | some new => cases s.params.update <;> rfl
    | countLoaded | illegalLoaded => rfl
  | gone | top | blocked | servicing => rfl

theorem finishEdge_setUnitP (lvA lvB : Level) (p : UnitP α) (s : State α) :
    finishEdge lvA lvB (setUnitP p s) = setUnitP p (finishEdge lvA lvB s) := by
  simp only [finishEdge, advanceEdge_setUnitP]

theorem settleEdge_setUnitP (p : UnitP α) (s : State α) : settleEdge (setUnitP p s) = setUnitP p (settleEdge s) := by
  unfold settleEdge
  rw [setUnitP_b]
  cases s.b.consumer with
  | inEdge rest stage => exact finishEdge_setUnitP _ _ p (useFree 2 s)
  | gone | top | blocked | servicing => rfl

theorem beginEdge_setUnitP (ch : Channel) (ts : Slot) (rest : List Channel) (p : UnitP α) (s : State α) :
    beginEdge ch ts rest (setUnitP p s) = setUnitP p (beginEdge ch ts rest s) := by
  have hstamped : stamped ch ts (setUnitP p s) = setUnitP p (stamped ch ts s) := by
    cases ch <;> rfl
  have htest : debounceTest (Config.freeVerdict s.fresh) ch (edgeTime s.params ts) (setUnitP p s) =
      debounceTest (Config.freeVerdict s.fresh) ch (edgeTime s.params ts) s := by
    cases ch <;> rfl
  simp only [beginEdge_eq, setUnitP_fresh, setUnitP_params, hstamped, htest]
  split_ifs <;> rfl

theorem wholeEdge_setUnitP (ch : Channel) (ts : Slot) (lvA lvB : Level) (rest : List Channel) (p : UnitP α)
    (s : State α) : wholeEdge ch ts lvA lvB rest (setUnitP p s) = setUnitP p (wholeEdge ch ts lvA lvB rest s) := by
  simp only [wholeEdge, beginEdge_setUnitP, finishEdge_setUnitP]

theorem edgeFromTop_setUnitP (ch : Channel) (ts : Slot) (lvA lvB : Level) (p : UnitP α) (s : State α) :
    edgeFromTop ch ts lvA lvB (setUnitP p s) = setUnitP p (edgeFromTop ch ts lvA lvB s) := by
  simp only [edgeFromTop, setUnitP_b, wholeEdge_setUnitP]
  split_ifs <;> rfl

theorem reachEdge_setUnitP (ch : Channel) (ts : Slot) (lvA lvB : Level) (p : UnitP α) (s : State α) :
    reachEdge ch ts lvA lvB (setUnitP p s) = setUnitP p (reachEdge ch ts lvA lvB s) := by
  unfold reachEdge
  rw [setUnitP_b]
  cases s.b.consumer with
  | top => exact edgeFromTop_setUnitP ch ts lvA lvB p s
  | blocked => exact wholeEdge_setUnitP ch ts lvA lvB [] p s
  | servicing todo =>
    simp only []
    cases restAfter ch todo with
    | some later => exact wholeEdge_setUnitP ch ts lvA lvB later p s
    | none => exact edgeFromTop_setUnitP ch ts lvA lvB p (setConsumer .top s)
  | gone | inEdge => rfl

/-- A `QEDGE` leaves unit P alone (20_memory.md R54). -/
theorem reachEdge_settleEdge_p (ch : Channel) (ts : Slot) (lvA lvB : Level) (s : State α) :
    (reachEdge ch ts lvA lvB (settleEdge s)).p = s.p := by
  have h := reachEdge_setUnitP ch ts lvA lvB s.p (settleEdge s)
  rw [← settleEdge_setUnitP, setUnitP_self] at h
  rw [h, setUnitP_p]

/-- A command or event of unit Q runs alike whatever unit P holds, over any number system. -/
theorem execOver_setUnitP (N : Nat → NumSys α) {i : Instr} (hi : ofUnitP i = false) (hkind : i.kind ≠ .lifecycle)
    (p : UnitP α) (s : State α) : execOver N i (setUnitP p s) = mapNext (setUnitP p) (execOver N i s) := by
  cases i with
  | qrdCount | qrdIllegal | qreset =>
    simp only [execOver]
    apply admitted_setUnitP
    rfl
  | qsetDebounce us =>
    simp only [execOver]
    apply admitted_setUnitP
    simp only [setUnitP_params]
    cases u1OfSlot s.params us with
    | some d => rfl
    | none => exact congrArg Host.Outcome.next (rejectCommand_setUnitP p s)
  | qedge ch ts lvA lvB =>
    simp only [execOver, qedgeOver, setUnitP_b, settleEdge_setUnitP, reachEdge_setUnitP]
    split_ifs <;> rfl
  | pstep | preset | psetKp | psetKi | psetKd | psetOutLimits | psetIntLimits | psetAwGain | prdInteg | prdLastU |
      prdLastY => simp [ofUnitP, opcode] at hi
  | bconstruct | bstop | brelease => exact absurd rfl hkind

/-- Settles O18: the two equivariance lemmas, each read at the given contents and at the unit's own, and the law of a
platform's step. -/
theorem unitsDoNotInterfere : Obligations.UnitsDoNotInterfere := by
  refine ⟨fun i s t q hi h => ?_, fun i s t p hi hkind h => ?_, fun nMotors k pl pl' h => ?_⟩
  · have hrun : ∀ q, exec i (setUnitQ q s) = .next (setUnitQ q t) := fun q => by
      rw [exec_eq_execOver] at h ⊢
      rw [execOver_setUnitQ numSys hi, h, mapNext_next]
    have hself : t = setUnitQ s.q t := by simpa using h.symm.trans (hrun s.q)
    exact ⟨by rw [hself]; rfl, hrun q⟩
  · have hrun : ∀ p, exec i (setUnitP p s) = .next (setUnitP p t) := fun p => by
      rw [exec_eq_execOver] at h ⊢
      rw [execOver_setUnitP numSys hi hkind, h, mapNext_next]
    have hself : t = setUnitP s.p t := by simpa using h.symm.trans (hrun s.p)
    exact ⟨by rw [hself]; rfl, hrun p⟩
  · obtain ⟨t, hstep, rfl⟩ := platformStep_next h
    refine ⟨by simpa using hstep, fun m hm => ?_⟩
    exact Vector.getElem_set_ne _ _ (fun heq => hm (Fin.ext heq.symm))

end Sys2Proof.Machine
end

section
/-! PROOFS. The family 10_state.md: the invariants of the two units (R16, R25). -/

namespace Sys2Proof.Machine

variable {α : Type}

/-! ### Unit P -/

/-- An operation that completes keeps both bound pairs in order (10_state.md R25(c)). -/
theorem Leaves.boundsOrdered {i : Instr} {s t : State} (h : Leaves numSys s i t) (hs : s.BoundsOrdered) :
    t.BoundsOrdered := by
  cases h with
  | pstep _ _ _ _ hstep => exact pidStep_ordered hstep hs
  | psetOutLimits => exact setOutLimits_ordered _ _ _ hs
  | psetIntLimits => exact setIntLimits_ordered _ _ _ hs
  | constructed => exact constructP_ordered _ _ hs
  | qedge =>
    rw [boundsOrdered_iff, reachEdge_settleEdge_p]
    exact hs
  | notReady | illegalCmd | read | qreset | qsetDebounce | preset | psetKp | psetKi | psetKd | psetAwGain |
      notAcquired | levelsFailed | bstop | released | joining | noEffect => exact hs

/-- A `PSTEP` that is served writes its four elements and answers the command, which is `P.lastY`. -/
theorem Leaves.of_pstep {N : Nat → NumSys α} {ref meas dt : Slot} {s t : State α}
    (h : Leaves N s (.pstep ref meas dt) t) (hobs : observable s = true) :
    t.out = s.out ++ [.response s.port ⟨.ok, .num t.p.lastY⟩] ∧
    ∃ e u i, t.p = { s.p with
      integ := sat (N s.fresh) i s.p.intMin s.p.intMax
      prevErr := e
      lastU := u
      lastY := sat (N s.fresh) u s.p.outMin s.p.outMax } := by
  cases h with
  | pstep _ _ _ _ hstep => exact ⟨rfl, pidStep_eq hstep⟩
  | notReady _ hnot => simp [hobs] at hnot
  | read _ _ hread => cases hread
  | noEffect hkind => exact absurd rfl hkind

/-- A `PRESET` that is served seeds unit P. -/
theorem Leaves.of_preset {N : Nat → NumSys α} {iseed eseed : Slot} {s t : State α}
    (h : Leaves N s (.preset iseed eseed) t) (hobs : observable s = true) :
    ∃ i e, t.p = pidPreset (N s.fresh) i e s.p := by
  cases h with
  | preset => exact ⟨_, _, rfl⟩
  | notReady _ hnot => simp [hobs] at hnot
  | read _ _ hread => cases hread
  | noEffect hkind => exact absurd rfl hkind

/-- Settles O40: the bounds by `Leaves.boundsOrdered`, the integrator and the command by `sat_in_bounds`. -/
theorem unitPInvariants : Obligations.UnitPInvariants := by
  intro i s t hs h
  have hleaves := leaves_of_exec h
  refine ⟨hleaves.boundsOrdered hs, fun hobs hi => ?_, fun hobs hi => ?_⟩
  · obtain ⟨-, hint⟩ := hs
    obtain ⟨ref, meas, dt, rfl⟩ | ⟨iseed, eseed, rfl⟩ := hi
    · obtain ⟨-, e, u, i, hp⟩ := hleaves.of_pstep hobs
      rw [hp]
      exact sat_in_bounds s.fresh hint i
    · obtain ⟨i, e, hp⟩ := hleaves.of_preset hobs
      rw [hp]
      exact sat_in_bounds s.fresh hint i
  · obtain ⟨hbounds, -⟩ := hs
    obtain ⟨ref, meas, dt, rfl⟩ := hi
    obtain ⟨hout, e, u, i, hp⟩ := hleaves.of_pstep hobs
    refine ⟨hout, ?_⟩
    rw [hp]
    exact sat_in_bounds s.fresh hbounds u

/-! ### Unit Q -/

/-- What one edge may do to unit Q (10_state.md R16): at most store its timestamp; or be applied, and move the position
by one; or be illegal, and leave the position alone. -/
def EdgeEffect (s t : State) : Prop :=
  (t.q.count = s.q.count ∧ t.q.illegal = s.q.illegal ∧ t.q.phase = s.q.phase) ∨
  (t.out = s.out ++ [.outcome .applied] ∧ t.q.illegal = s.q.illegal ∧
    (t.q.count = wrapCount s.params s.q.count 1 ∨ t.q.count = wrapCount s.params s.q.count (-1))) ∨
  (t.out = s.out ++ [.outcome .illegal] ∧ t.q.count = s.q.count)

theorem tableStep_effect (rest : List Channel) (new : BitVec 2) (s : State) :
    EdgeEffect s (endEdge (tableLabel (loadPhase s) new) rest (tableStep new s)) := by
  obtain ⟨hq, hl, ht⟩ | ⟨-, -, hl, ht⟩ | ⟨-, -, hl, -, ht⟩ := tableStep_cases new s
  · have hone := (qtab_range (loadPhase s) new).resolve_left hq
    refine .inr (.inl ⟨by simp [endEdge, hl, ht], by simp [endEdge, ht], ?_⟩)
    exact hone.imp (fun h => by simp [endEdge, ht, h]) (fun h => by simp [endEdge, ht, h])
  · exact .inr (.inr ⟨by simp [endEdge, hl, ht], by simp [endEdge, ht]⟩)
  · exact .inl (by simp [endEdge, ht])

theorem edgeEffect_stamped_iff (ch : Channel) (ts : Slot) (s t : State) :
    EdgeEffect (stamped ch ts s) t ↔ EdgeEffect s t := by
  simp [EdgeEffect, stamped]

theorem wholeEdge_effect (ch : Channel) (ts : Slot) (lvA lvB : Level) (rest : List Channel) (s : State) :
    EdgeEffect s (wholeEdge ch ts lvA lvB rest s) := by
  obtain h | h | ⟨new, -, h⟩ := wholeEdge_cases ch ts lvA lvB rest s
  · exact .inl (by simp [h, endEdge, stamped])
  · exact .inl (by simp [h, endEdge, stamped])
  · rw [h, ← edgeEffect_stamped_iff ch ts, ← loadPhase_stamped ch ts]
    exact tableStep_effect rest new (stamped ch ts s)

theorem reachEdge_effect (ch : Channel) (ts : Slot) (lvA lvB : Level) (s : State) :
    EdgeEffect s (reachEdge ch ts lvA lvB s) := by
  obtain h | ⟨-, h⟩ | ⟨rest, -, h⟩ := reachEdge_cases ch ts lvA lvB s
  · exact .inl (by simp [h])
  · exact .inl (by simp [h])
  · exact h ▸ wholeEdge_effect ch ts lvA lvB rest s

theorem settleEdge_of_noEdge {s : State} (h : s.NoEdgeInFlight) : settleEdge s = s := by
  obtain ⟨-, hsettle⟩ | ⟨rest, stage, -, -, hc, -⟩ := settleEdge_cases s
  · exact hsettle
  · exact absurd hc (h rest stage)

/-- Settles O31: an edge has an `EdgeEffect`; of the other operations `QRESET` and construction alone write a counter or
the phase, and none ends `Debounced` or `ReadFail`. -/
theorem unitQInvariants : Obligations.UnitQInvariants := by
  intro i s t hidle h
  cases leaves_of_exec h with
  | @qedge ch ts lvA lvB =>
    rw [settleEdge_of_noEdge hidle]
    obtain ⟨hc, hi, hp⟩ | ⟨hout, hi, hc⟩ | ⟨hout, hc⟩ := reachEdge_effect ch ts lvA lvB s
    · simp [hc, hi, hp, Instr.kind]
    · simp [hout, hi, hc, Instr.kind]
    · simp [hout, hc, Instr.kind]
  | notReady | illegalCmd | read | noEffect => simp
  | qreset => simp [Instr.kind]
  | qsetDebounce | pstep | preset | psetKp | psetKi | psetKd | psetAwGain | psetOutLimits | psetIntLimits =>
    simp
  | constructed => simp [constructed, constructQ, Instr.kind]
  | notAcquired | levelsFailed => simp [constructFailed, Instr.kind]
  | bstop | released | joining => simp [Instr.kind]

/-! ### The consumer's loop -/

/-- The consumer's stimulus is its turn. -/
theorem step_consumer {s : State} {a : Answers} {rest : List Stimulus} (h : s.inbox = .consumer a :: rest) :
    step s = .next (consumerTurn a (fetched rest s)) := by
  rw [step, stepWith, h]

/-- The debounce test over natural numbers, where the channel has a timestamp (40_qdec.md R82). -/
theorem debounceTest_of_valid {ch : Channel} {s : State α} (h : (stampOf ch s).valid = true) (free : Bool) (ts : Nat) :
    debounceTest free ch ts s =
      if (stampOf ch s).ts ≤ ts then decide (ts < (stampOf ch s).ts + s.q.debounceUs) else free := by
  simp only [debounceTest, h, Bool.true_eq_false, if_false, sub_nonneg, Nat.cast_le]
  congr 2
  exact propext (by omega)

theorem debounceTest_of_tooSoon {ch : Channel} {ts : Slot} {s : State} (h : tooSoon ch ts s) (free : Bool) :
    debounceTest free ch (edgeTime s.params ts) s = true := by
  obtain ⟨hvalid, hle, hlt⟩ := h
  rw [debounceTest_of_valid hvalid, if_pos hle, decide_eq_true hlt]

theorem debounceTest_of_inTime {ch : Channel} {ts : Slot} {s : State} (h : inTime ch ts s) (free : Bool) :
    debounceTest free ch (edgeTime s.params ts) s = false := by
  cases hvalid : (stampOf ch s).valid with
  | false => simp [debounceTest, hvalid]
  | true =>
    have hle := h hvalid
    rw [debounceTest_of_valid hvalid, if_pos (by omega), decide_eq_false (by omega)]

/-- An edge that ends after its timestamp store leaves `afterEdge` (40_qdec.md R80, R83). -/
theorem endEdge_stamped (ch : Channel) (ts : Slot) (rest : List Channel) (l : Label) (s : State) :
    endEdge l rest (stamped ch ts s) = afterEdge ch ts rest l s := by
  cases ch <;> rfl

theorem beginEdge_of_tooSoon {ch : Channel} {ts : Slot} {s : State} (h : tooSoon ch ts s) (rest : List Channel) :
    beginEdge ch ts rest s = afterEdge ch ts rest .debounced s := by
  rw [beginEdge_eq, if_pos (debounceTest_of_tooSoon h _), endEdge_stamped]

theorem beginEdge_of_inTime {ch : Channel} {ts : Slot} {s : State} (h : inTime ch ts s) (rest : List Channel) :
    beginEdge ch ts rest s = setConsumer (.inEdge rest .accepted) (stamped ch ts s) := by
  rw [beginEdge_eq, if_neg (by simp [debounceTest_of_inTime h])]

/-! The consumer's turn, by its control state (40_qdec.md R80, R81). -/

section
variable {s : State α} (a : Answers) (hlife : s.b.life = .running)
include hlife

theorem consumerTurn_gone (hc : s.b.consumer = .gone) : consumerTurn a s = s := by
  simp [consumerTurn, hlife, hc]

theorem consumerTurn_top (hc : s.b.consumer = .top) :
    consumerTurn a s = if s.b.run then setConsumer .blocked s else exitConsumer s := by
  simp [consumerTurn, hlife, hc]

theorem consumerTurn_blocked (hc : s.b.consumer = .blocked) :
    consumerTurn a s = setConsumer (afterChannel (Ready.channels a.ready)) s := by
  simp [consumerTurn, hlife, hc]

theorem consumerTurn_servicing_nil (hc : s.b.consumer = .servicing []) : consumerTurn a s = setConsumer .top s := by
  simp [consumerTurn, hlife, hc]

theorem consumerTurn_noEvent {ch : Channel} {todo : List Channel} (hc : s.b.consumer = .servicing (ch :: todo))
    (ha : a.event = none) : consumerTurn a s = setConsumer (afterChannel todo) s := by
  simp [consumerTurn, hlife, hc, ha]

theorem consumerTurn_event {ch : Channel} {todo : List Channel} {ts : Slot}
    (hc : s.b.consumer = .servicing (ch :: todo)) (ha : a.event = some ts) :
    consumerTurn a s = beginEdge ch ts todo s := by
  simp [consumerTurn, hlife, hc, ha]

theorem consumerTurn_inEdge {todo : List Channel} {stage : EdgeStage} (hc : s.b.consumer = .inEdge todo stage) :
    consumerTurn a s = advanceEdge a.lvA a.lvB s := by
  simp [consumerTurn, hlife, hc]

end

/-- Settles O36: the step is the consumer's turn in the fetched state, whose case for the control state is the
clause. -/
theorem consumerLoop : Obligations.ConsumerLoop := by
  intro s a rest hin hlife
  rw [step_consumer hin]
  have hlife' : (fetched rest s).b.life = .running := hlife
  refine ⟨fun hc hrun => ?_, fun hc hrun => ?_, fun hc => ?_, fun ch todo hc ha => ?_, fun ch todo ts hc ha => ?_,
    fun todo hc => ?_⟩
  · rw [consumerTurn_top a hlife' hc, fetched_b, hrun]
    rfl
  · rw [consumerTurn_top a hlife' hc, fetched_b, hrun]
    rfl
  · rw [consumerTurn_blocked a hlife' hc]
    cases a.ready <;> rfl
  · rw [consumerTurn_noEvent a hlife' hc ha]
    rfl
  · rw [consumerTurn_event a hlife' hc ha]
    refine ⟨fun hsoon => ?_, fun htime => ?_⟩
    · rw [beginEdge_of_tooSoon (s := fetched rest s) hsoon]
      rfl
    · rw [beginEdge_of_inTime (s := fetched rest s) htime]
      cases ch <;> rfl
  · rw [consumerTurn_inEdge a hlife' hc]
    refine ⟨fun hp => ?_, fun new hp hu => ?_⟩
    · rw [advanceEdge_readFail (s := fetched rest s) hc hp]
      rfl
    · obtain ⟨-, hb, -, -, -, hout, -⟩ := tableStep_frame new (fetched rest s)
      rw [advanceEdge_rmw (s := fetched rest s) hc hp hu]
      refine ⟨_, rfl, ?_, loadPhase_tableStep new _, ?_⟩
      · simp only [endEdge, raise_out, setConsumer_out, hout, fetched_out]
        rfl
      · simp only [endEdge, raise_b, setConsumer_b, hb, fetched_b]

end Sys2Proof.Machine
end

section
/-! PROOFS. The family 10_state.md: the invariant of the machine. First what it asks of each update of the state, then
that each event of an agent and each operation keeps it. -/

namespace Sys2Proof.Machine

/-! ### The invariant under each update of the state -/

/-- All of the invariant but what it says of the wake, which does not hold between the stores of one event. -/
structure State.InvOutsideWake (s : State) : Prop where
  params : Params.Admitted s.params
  counters : s.CountersInRange
  times : s.TimesInRange
  phase : s.PhaseByte
  bounds : s.BoundsOrdered
  eps : s.EpsPositive
  life : s.LifeCoherent

theorem inv_iff (s : State) : s.Inv ↔ s.InvOutsideWake ∧ s.WakeCoherent := by
  constructor
  · rintro ⟨hp, hc, ht, hph, hb, he, hl, hw⟩
    exact ⟨⟨hp, hc, ht, hph, hb, he, hl⟩, hw⟩
  · rintro ⟨⟨hp, hc, ht, hph, hb, he, hl⟩, hw⟩
    exact ⟨hp, hc, ht, hph, hb, he, hl, hw⟩

@[simp] theorem inv_raise (l : Label) (s : State) : (raise l s).Inv ↔ s.Inv := Iff.rfl
@[simp] theorem inv_respondOk (v : Val Num64) (s : State) : (respondOk v s).Inv ↔ s.Inv := Iff.rfl
@[simp] theorem inv_useFree (n : Nat) (s : State) : (useFree n s).Inv ↔ s.Inv := Iff.rfl
@[simp] theorem inv_servePort (g : HostAgent) (s : State) : (servePort g s).Inv ↔ s.Inv := Iff.rfl
@[simp] theorem inv_fetched (rest : List Stimulus) (s : State) : (fetched rest s).Inv ↔ s.Inv := Iff.rfl

variable {s : State}

theorem State.Inv.outsideWake (h : s.Inv) : s.InvOutsideWake := ((inv_iff s).mp h).1

theorem State.Inv.wake (h : s.Inv) : s.WakeCoherent := ((inv_iff s).mp h).2

theorem outsideWake_storeCount (h : s.InvOutsideWake) {v : Int} (hlo : -2 ^ (s.params.wCnt - 1) ≤ v)
    (hhi : v < 2 ^ (s.params.wCnt - 1)) : (storeCount v s).InvOutsideWake :=
  { h with counters := ⟨hlo, hhi, h.counters.2.2⟩ }

theorem outsideWake_storeIllegal (h : s.InvOutsideWake) {v : Nat} (hv : v < 2 ^ s.params.wIll) :
    (storeIllegal v s).InvOutsideWake :=
  { h with counters := ⟨h.counters.1, h.counters.2.1, hv⟩ }

theorem zeroExtend_phaseByte (v : BitVec 2) : (v.zeroExtend 8).toNat < 4 := by
  revert v
  decide

theorem outsideWake_storePhase (h : s.InvOutsideWake) (v : BitVec 2) : (storePhase v s).InvOutsideWake :=
  { h with phase := zeroExtend_phaseByte v }

theorem edgeTime_lt (p : Params Num64) (ts : Slot) : edgeTime p ts < 2 ^ p.wTs := Nat.mod_lt _ (by positivity)

theorem outsideWake_stamped (h : s.InvOutsideWake) (ch : Channel) (ts : Slot) :
    (stamped ch ts s).InvOutsideWake := by
  obtain ⟨hA, hB, hD⟩ := h.times
  cases ch with
  | A => exact { h with times := ⟨edgeTime_lt s.params ts, hB, hD⟩ }
  | B => exact { h with times := ⟨hA, edgeTime_lt s.params ts, hD⟩ }

/-- Storing a wrapped counter keeps its range (10_state.md R11). -/
theorem outsideWake_storeCount_wrap (h : s.InvOutsideWake) (v d : Int) :
    (storeCount (wrapCount s.params v d) s).InvOutsideWake := by
  have hw : 1 ≤ s.params.wCnt := le_trans (by norm_num) h.params.1
  obtain ⟨hlo, hhi⟩ := wrapS_range hw (v + d)
  exact outsideWake_storeCount h hlo hhi

theorem outsideWake_storeIllegal_wrap (h : s.InvOutsideWake) (v : Nat) :
    (storeIllegal (wrapIllegal s.params v) s).InvOutsideWake :=
  outsideWake_storeIllegal h (wrapU_lt _ _)

theorem outsideWake_tableStep (h : s.InvOutsideWake) (new : BitVec 2) : (tableStep new s).InvOutsideWake := by
  obtain ⟨-, -, ht⟩ | ⟨-, -, -, ht⟩ | ⟨-, -, -, -, ht⟩ := tableStep_cases new s
  · exact ht ▸ outsideWake_storePhase (outsideWake_storeCount_wrap h _ _) new
  · exact ht ▸ outsideWake_storePhase (outsideWake_storeIllegal_wrap h _) new
  · exact ht.symm ▸ h

/-- Only a `RUNNING` block has a consumer (60_exceptions.md R176). -/
theorem State.InvOutsideWake.running (h : s.InvOutsideWake) (hc : s.b.consumer ≠ .gone) : s.b.life = .running := by
  have hl := h.life
  cases hlife : s.b.life with
  | running => rfl
  | unbuilt | stopped | released | failed => simp [State.LifeCoherent, hlife, hc] at hl

theorem lifeCoherent_of_running (hlife : s.b.life = .running) :
    s.LifeCoherent ↔ s.b.source = .held ∧ s.b.consumer ≠ .gone := by
  simp [State.LifeCoherent, hlife]

/-- The consumer of a `RUNNING` block moves on. -/
theorem outsideWake_setConsumer (h : s.InvOutsideWake) (hlife : s.b.life = .running) {c : Consumer} (hc : c ≠ .gone) :
    (setConsumer c s).InvOutsideWake :=
  { h with
    life := (lifeCoherent_of_running (s := setConsumer c s) hlife).mpr
      ⟨((lifeCoherent_of_running hlife).mp h.life).1, hc⟩ }

theorem inv_setConsumer (h : s.InvOutsideWake) (hlife : s.b.life = .running) {c : Consumer} (hc : c ≠ .gone)
    (hw : (setConsumer c s).WakeCoherent) : (setConsumer c s).Inv :=
  (inv_iff _).mpr ⟨outsideWake_setConsumer h hlife hc, hw⟩

/-- The consumer goes on with a wake that visits no channel twice. -/
theorem inv_setConsumer_afterChannel (h : s.InvOutsideWake) (hlife : s.b.life = .running) {rest : List Channel}
    (hrest : rest.Nodup) : (setConsumer (afterChannel rest) s).Inv := by
  cases rest with
  | nil => exact inv_setConsumer h hlife nofun trivial
  | cons ch rest => exact inv_setConsumer h hlife nofun ⟨nofun, hrest⟩

theorem inv_endEdge (h : s.InvOutsideWake) (hlife : s.b.life = .running) {rest : List Channel} (hrest : rest.Nodup)
    (l : Label) : (endEdge l rest s).Inv :=
  (inv_raise l _).mpr (inv_setConsumer_afterChannel h hlife hrest)

theorem inv_exitConsumer (h : s.InvOutsideWake) (hlife : s.b.life = .running) : (exitConsumer s).Inv :=
  (inv_iff _).mpr ⟨{ h with life := ⟨((lifeCoherent_of_running hlife).mp h.life).1, rfl⟩ }, trivial⟩

/-! ### The channels of a wake -/

theorem nodup_of_length_le_one {rest : List Channel} (h : rest.length ≤ 1) : rest.Nodup := by
  match rest, h with
  | [], _ => exact List.nodup_nil
  | [ch], _ => exact List.nodup_singleton ch

/-- There are two channels, so at most one is left after the first of a wake. -/
theorem length_le_one_of_nodup_cons {ch : Channel} {rest : List Channel} (h : (ch :: rest).Nodup) :
    rest.length ≤ 1 := by
  match rest with
  | [] => simp
  | [_] => simp
  | c :: d :: _ => cases ch <;> cases c <;> cases d <;> simp at h

theorem restAfter_length {ch : Channel} {todo later : List Channel} (h : restAfter ch todo = some later)
    (hnodup : todo.Nodup) : later.length ≤ 1 := by
  induction todo with
  | nil => cases h
  | cons c rest ih =>
    unfold restAfter at h
    split_ifs at h
    · obtain rfl := Option.some.inj h
      exact length_le_one_of_nodup_cons hnodup
    · exact ih h hnodup.of_cons

theorem ready_channels_nodup (r : Ready) : (Ready.channels r).Nodup := by
  cases r <;> decide

/-- Wherever the consumer reads an event, at most one channel is left after it. -/
theorem edgeRest_length (h : s.WakeCoherent) {ch : Channel} {rest : List Channel} (hrest : edgeRest ch s = some rest) :
    rest.length ≤ 1 := by
  unfold edgeRest at hrest
  unfold State.WakeCoherent at h
  cases hc : s.b.consumer with
  | servicing todo =>
    rw [hc] at h
    cases hlater : restAfter ch todo with
    | some later =>
      obtain rfl : later = rest := by simpa [hc, hlater] using hrest
      exact restAfter_length hlater h.2
    | none =>
      obtain ⟨-, rfl⟩ : s.b.run = true ∧ [] = rest := by simpa [hc, hlater] using hrest
      simp
  | top =>
    obtain ⟨-, rfl⟩ : s.b.run = true ∧ [] = rest := by simpa [hc] using hrest
    simp
  | blocked =>
    obtain rfl : [] = rest := by simpa [hc] using hrest
    simp
  | gone | inEdge => simp [hc] at hrest

/-! ### The invariant under the events of a `QEDGE` -/

theorem inv_splitLoad (h : s.InvOutsideWake) (hlife : s.b.life = .running) (hu : s.params.update = .split)
    {rest : List Channel} (hrest : rest.length ≤ 1) (new : BitVec 2) : (splitLoad new rest s).Inv := by
  unfold splitLoad
  simp only []
  split_ifs with hq hi
  · exact inv_setConsumer h hlife nofun ⟨hrest, hu, rfl, hq⟩
  · exact inv_setConsumer h hlife nofun ⟨hrest, hu, hi⟩
  · exact inv_endEdge h hlife (nodup_of_length_le_one hrest) _

theorem inv_advanceEdge (h : s.Inv) (lvA lvB : Level) : (advanceEdge lvA lvB s).Inv := by
  have hrest : ∀ rest stage, s.b.consumer = .inEdge rest stage → rest.length ≤ 1 ∧ s.b.life = .running := by
    intro rest stage hc
    have hw := h.wake
    simp only [State.WakeCoherent, hc] at hw
    exact ⟨hw.1, h.outsideWake.running (by simp [hc])⟩
  obtain heq | ⟨rest, hc, -, heq⟩ | ⟨rest, new, hc, -, -, heq⟩ | ⟨rest, new, hc, -, hu, heq⟩ |
    ⟨rest, v, delta, new, hc, heq⟩ | ⟨rest, v, new, hc, heq⟩ := advanceEdge_cases lvA lvB s
  · exact heq.symm ▸ h
  all_goals
    obtain ⟨hlen, hlife⟩ := hrest _ _ hc
    have hnodup := nodup_of_length_le_one hlen
    rw [heq]
  · exact inv_endEdge h.outsideWake hlife hnodup _
  · refine inv_endEdge (outsideWake_tableStep h.outsideWake new) ?_ hnodup _
    simpa [tableStep_frame] using hlife
  · exact inv_splitLoad h.outsideWake hlife hu hlen new
  · exact inv_endEdge (outsideWake_storePhase (outsideWake_storeCount_wrap h.outsideWake v delta) new) hlife hnodup _
  · exact inv_endEdge (outsideWake_storePhase (outsideWake_storeIllegal_wrap h.outsideWake v) new) hlife hnodup _

theorem inv_finishEdge (h : s.Inv) (lvA lvB : Level) : (finishEdge lvA lvB s).Inv :=
  inv_advanceEdge (inv_advanceEdge h lvA lvB) lvA lvB

theorem inv_settleEdge (h : s.Inv) : (settleEdge s).Inv := by
  obtain ⟨-, heq⟩ | ⟨_, _, a, b, -, heq⟩ := settleEdge_cases s
  · exact heq.symm ▸ h
  · exact heq ▸ inv_finishEdge ((inv_useFree 2 s).mpr h) a b

theorem inv_beginEdge (h : s.InvOutsideWake) (hlife : s.b.life = .running) {rest : List Channel}
    (hrest : rest.length ≤ 1) (ch : Channel) (ts : Slot) : (beginEdge ch ts rest s).Inv := by
  have hstamped := outsideWake_stamped h ch ts
  have hrunning : (stamped ch ts s).b.life = .running := by simpa [stamped] using hlife
  rw [beginEdge_eq]
  split_ifs
  · exact inv_endEdge hstamped hrunning (nodup_of_length_le_one hrest) _
  · exact inv_setConsumer hstamped hrunning nofun ⟨hrest, trivial⟩

theorem inv_reachEdge (h : s.Inv) (hlife : s.b.life = .running) (ch : Channel) (ts : Slot) (lvA lvB : Level) :
    (reachEdge ch ts lvA lvB s).Inv := by
  obtain heq | ⟨-, heq⟩ | ⟨rest, hrest, heq⟩ := reachEdge_cases ch ts lvA lvB s
  · exact heq.symm ▸ h
  · exact heq ▸ inv_exitConsumer h.outsideWake hlife
  · exact heq ▸ inv_finishEdge (inv_beginEdge h.outsideWake hlife (edgeRest_length h.wake hrest) ch ts) lvA lvB

/-! ### The invariant under the other events of the agents -/

theorem inv_consumerTurn (h : s.Inv) (a : Answers) : (consumerTurn a s).Inv := by
  by_cases hlife : s.b.life = .running
  swap
  · rwa [consumerTurn_not_running a hlife]
  have hout := h.outsideWake
  have hw := h.wake
  unfold State.WakeCoherent at hw
  cases hc : s.b.consumer with
  | gone => rwa [consumerTurn_gone a hlife hc]
  | top =>
    rw [consumerTurn_top a hlife hc]
    split_ifs
    · exact inv_setConsumer hout hlife nofun trivial
    · exact inv_exitConsumer hout hlife
  | blocked =>
    rw [consumerTurn_blocked a hlife hc]
    exact inv_setConsumer_afterChannel hout hlife (ready_channels_nodup a.ready)
  | servicing todo =>
    rw [hc] at hw
    obtain ⟨-, hnodup⟩ := hw
    cases todo with
    | nil =>
      rw [consumerTurn_servicing_nil a hlife hc]
      exact inv_setConsumer hout hlife nofun trivial
    | cons ch rest =>
      cases ha : a.event with
      | none =>
        rw [consumerTurn_noEvent a hlife hc ha]
        exact inv_setConsumer_afterChannel hout hlife hnodup.of_cons
      | some ts =>
        rw [consumerTurn_event a hlife hc ha]
        exact inv_beginEdge hout hlife (length_le_one_of_nodup_cons hnodup) ch ts
  | inEdge rest stage =>
    rw [consumerTurn_inEdge a hlife hc]
    exact inv_advanceEdge h _ _

theorem inv_storeCount_zero (h : s.Inv) : (storeCount 0 s).Inv :=
  (inv_iff _).mpr ⟨outsideWake_storeCount h.outsideWake (by simp) (by positivity), h.wake⟩

theorem inv_storeIllegal_zero (h : s.Inv) : (storeIllegal 0 s).Inv :=
  (inv_iff _).mpr ⟨outsideWake_storeIllegal h.outsideWake (by positivity), h.wake⟩

/-- A command in flight is coherent with every lifecycle state in which commands are admitted, and its end with all. -/
theorem lifeCoherent_setInFlight (h : s.LifeCoherent) (g : HostAgent) {r : Option ResetLeft}
    (hr : r = none ∨ observable s = true) : (setInFlight g r s).LifeCoherent := by
  cases hlife : s.b.life with
  | running | stopped | released => simpa [State.LifeCoherent, hlife] using h
  | unbuilt | failed =>
    obtain rfl : r = none := by simpa [observable, hlife] using hr
    simp only [State.LifeCoherent, State.HostsIdle, setInFlight_b, hlife] at h ⊢
    obtain ⟨hsource, hgone, hjoin, hidle⟩ := h
    refine ⟨hsource, hgone, hjoin, ?_⟩
    cases g <;> simp [setInFlight, hidle]

theorem inv_setInFlight (h : s.Inv) (g : HostAgent) {r : Option ResetLeft} (hr : r = none ∨ observable s = true) :
    (setInFlight g r s).Inv := by
  have hlife := lifeCoherent_setInFlight h.outsideWake.life g hr
  have hwake := h.wake
  cases g <;> exact (inv_iff _).mpr ⟨{ h.outsideWake with life := hlife }, hwake⟩

theorem inv_finishReset (h : s.Inv) (g : HostAgent) : (finishReset g s).Inv := by
  obtain ⟨-, heq⟩ | ⟨-, heq⟩ | ⟨-, heq⟩ := finishReset_cases g s
  · exact heq.symm ▸ h
  · exact heq ▸ inv_setInFlight (inv_storeCount_zero h) g (.inl rfl)
  · exact heq ▸ inv_setInFlight (inv_storeIllegal_zero h) g (.inl rfl)

theorem inv_beginReset (h : s.Inv) (hobs : observable s = true) (g : HostAgent) (left : ResetLeft) :
    (beginReset g left s).Inv := by
  cases left with
  | countLeft => exact inv_setInFlight (inv_storeIllegal_zero h) g (.inr hobs)
  | illegalLeft => exact inv_setInFlight (inv_storeCount_zero h) g (.inr hobs)

theorem inv_release (h : s.Inv) (hlife : s.b.life = .stopped) : (release s).Inv := by
  have hl := h.outsideWake.life
  simp only [State.LifeCoherent, hlife] at hl
  exact (inv_iff _).mpr ⟨{ h.outsideWake with life := ⟨rfl, hl.2, rfl⟩ }, h.wake⟩

theorem inv_joinRelease (h : s.Inv) : (joinRelease s).Inv := by
  unfold joinRelease
  split_ifs with hjoin
  · exact inv_release h hjoin.2
  · exact h

theorem inv_quietTurn (h : s.Inv) : (quietTurn s).Inv := by
  unfold quietTurn
  cases busyHost s with
  | some g => exact inv_finishReset h g
  | none => exact inv_consumerTurn ((inv_useFree 2 _).mpr (inv_joinRelease h)) _

theorem inv_rejectCommand (h : s.Inv) : (rejectCommand s).Inv := by
  unfold rejectCommand
  split_ifs <;> exact h

/-! ### The invariant under each operation -/

theorem inv_setUnitP (h : s.Inv) {p : UnitP Num64} (hp : p.Ordered) : (setUnitP p s).Inv :=
  (inv_iff _).mpr ⟨{ h.outsideWake with bounds := hp }, h.wake⟩

theorem inv_storeDebounce (h : s.Inv) {d : Nat} (hd : d < 2 ^ s.params.wDb) : (storeDebounce d s).Inv := by
  obtain ⟨hA, hB, -⟩ := h.outsideWake.times
  exact (inv_iff _).mpr ⟨{ h.outsideWake with times := ⟨hA, hB, hd⟩ }, h.wake⟩

theorem u1OfSlot_lt {p : Params Num64} {us : Slot} {d : Nat} (h : u1OfSlot p us = some d) : d < 2 ^ p.wDb := by
  unfold u1OfSlot at h
  split_ifs at h with hfits
  obtain rfl := Option.some.inj h
  simpa [Slot.fits] using hfits

theorem inv_constructed (h : s.Inv) (k : Nat) (phase : BitVec 2) : (constructed (numSys k) phase s).Inv := by
  have hout := h.outsideWake
  obtain ⟨-, -, -, -, hdb⟩ := hout.params
  refine (inv_iff _).mpr ⟨?_, trivial⟩
  exact {
    params := hout.params
    counters := by simp [State.CountersInRange, constructed, constructQ]
    times := ⟨Nat.mod_lt _ (by positivity), Nat.mod_lt _ (by positivity), hdb⟩
    phase := zeroExtend_phaseByte phase
    bounds := constructP_ordered k _ hout.bounds
    eps := hout.eps
    life := ⟨rfl, nofun⟩ }

theorem inv_constructFailed (h : s.Inv) (hlife : s.b.life = .unbuilt) {source : Source} (hsource : source ≠ .held) :
    (constructFailed source s).Inv := by
  have hl := h.outsideWake.life
  simp only [State.LifeCoherent, hlife] at hl
  obtain ⟨-, hgone, hjoin, hidle⟩ := hl
  exact (inv_iff _).mpr ⟨{ h.outsideWake with life := ⟨hsource, hgone, hjoin, hidle⟩ }, h.wake⟩

theorem inv_joining (h : s.Inv) (hlife : s.b.life = .running) :
    State.Inv { s with b := { s.b with joining := true } } :=
  (inv_iff _).mpr ⟨{ h.outsideWake with
    life := (lifeCoherent_of_running (s := { s with b := { s.b with joining := true } }) hlife).mpr
      ((lifeCoherent_of_running hlife).mp h.outsideWake.life) }, h.wake⟩

/-- An operation that completes keeps the invariant. -/
theorem Leaves.inv {i : Instr} {t : State} (hleaves : Leaves numSys s i t) (h : s.Inv) : t.Inv := by
  have hp := h.outsideWake.bounds
  cases hleaves with
  | notReady | illegalCmd | read | bstop | noEffect => exact h
  | qreset => exact (inv_respondOk _ _).mpr (inv_storeIllegal_zero (inv_storeCount_zero h))
  | qsetDebounce _ hfits => exact inv_storeDebounce h (u1OfSlot_lt hfits)
  | qedge hlife => exact inv_reachEdge (inv_settleEdge h) (by simpa [settleEdge_frame] using hlife) _ _ _ _
  | pstep _ _ _ _ hstep => exact inv_setUnitP h (pidStep_ordered hstep hp)
  | psetOutLimits => exact inv_setUnitP h (setOutLimits_ordered _ _ _ hp)
  | psetIntLimits => exact inv_setUnitP h (setIntLimits_ordered _ _ _ hp)
  | preset | psetKp | psetKi | psetKd | psetAwGain => exact inv_setUnitP h hp
  | constructed => exact inv_constructed h _ _
  | notAcquired hlife =>
    have hl := h.outsideWake.life
    simp only [State.LifeCoherent, hlife] at hl
    exact inv_constructFailed h hlife (by simp [hl.1])
  | levelsFailed hlife => exact inv_constructFailed h hlife nofun
  | joining hlife => exact inv_joining h hlife
  | released hlife => exact inv_release h hlife

/-- Settles O11: each event of an agent keeps the invariant, and so does each operation by `Leaves.inv`. -/
theorem everyStepKeepsTheInvariant : Obligations.EveryStepKeepsTheInvariant := by
  intro s t h hstep
  have hfetched (rest : List Stimulus) : (fetched rest s).Inv := (inv_fetched rest s).mpr h
  obtain ⟨-, rfl⟩ | ⟨g, w, pace, rest, -, hserve⟩ | ⟨w, i, rest, -, -, hexec⟩ | ⟨a, rest, -, rfl⟩ |
    ⟨g, rest, -, rfl⟩ | ⟨rest, -, rfl⟩ := step_cases hstep
  · exact inv_quietTurn (hfetched [])
  · have hhost : (serveHost g (fetched rest s)).Inv := (inv_servePort g _).mpr (inv_finishReset (hfetched rest) g)
    obtain ⟨-, rfl⟩ | ⟨left, -, hobs, rfl⟩ | ⟨i, -, hexec⟩ := serveCommand_cases hserve
    · exact inv_rejectCommand hhost
    · exact inv_beginReset hhost hobs g left
    · exact (leaves_of_exec hexec).inv hhost
  · exact (leaves_of_exec hexec).inv (hfetched rest)
  · exact inv_consumerTurn (hfetched rest) a
  · exact inv_finishReset (hfetched rest) g
  · exact inv_joinRelease (hfetched rest)

/-! ### The invariant at reset -/

/-- Settles O12: everything is 0, nothing is acquired and nothing runs; the parameters are the defaults. -/
theorem resetMeetsTheInvariant : Obligations.ResetMeetsTheInvariant := by
  refine (inv_iff _).mpr ⟨?_, trivial⟩
  exact {
    params := ⟨le_rfl, le_rfl, by decide, Nat.succ_pos _, Config.debounceInit.isLt⟩
    counters := ⟨by decide, by decide, by decide⟩
    times := ⟨by decide, by decide, by decide⟩
    phase := show (0 : Nat) < 4 by decide
    bounds := ⟨le_rfl, le_rfl⟩
    eps := show 0 < Num64.toInt Config.epsDt by decide +kernel
    life := ⟨rfl, rfl, rfl, rfl⟩ }

end Sys2Proof.Machine
end

section
/-! PROOFS. The family 20_memory.md: what an edge in flight still reads (R55), and the table step under `split` (R44,
R49). -/

namespace Sys2Proof.Machine

variable {α : Type}

/-! ### An edge past its load of the interval -/

theorem tableStep_storeDebounce (new : BitVec 2) (d : Nat) (s : State α) :
    tableStep new (storeDebounce d s) = storeDebounce d (tableStep new s) := by
  have hload : loadPhase (storeDebounce d s) = loadPhase s := rfl
  simp only [tableStep, hload]
  split_ifs <;> rfl

theorem splitLoad_storeDebounce (new : BitVec 2) (rest : List Channel) (d : Nat) (s : State α) :
    splitLoad new rest (storeDebounce d s) = storeDebounce d (splitLoad new rest s) := by
  have hload : loadPhase (storeDebounce d s) = loadPhase s := rfl
  simp only [splitLoad, hload]
  split_ifs <;> rfl

/-- The events of an edge past its debounce test do not read the interval (20_memory.md R55). -/
theorem advanceEdge_storeDebounce (lvA lvB : Level) (d : Nat) (s : State α) :
    advanceEdge lvA lvB (storeDebounce d s) = storeDebounce d (advanceEdge lvA lvB s) := by
  unfold advanceEdge
  rw [storeDebounce_b]
  cases s.b.consumer with
  | inEdge rest stage =>
    cases stage with
    | accepted =>
      cases phaseOf lvA lvB with
      | none => rfl
      | some new =>
        simp only [storeDebounce_params, tableStep_storeDebounce, splitLoad_storeDebounce]
        cases s.params.update <;> rfl
    | countLoaded | illegalLoaded => rfl
  | gone | top | blocked | servicing => rfl

/-- Settles O23: each event of an edge in flight commutes with the store. -/
theorem edgePastItsLoadIgnoresANewInterval : Obligations.EdgePastItsLoadIgnoresANewInterval :=
  fun s d lvA lvB => advanceEdge_storeDebounce lvA lvB d s

/-! ### An undisturbed edge under either update -/

/-- `QDEC_UPDATE` gets another value (20_memory.md R44). -/
def setUpdate (u : Update) (s : State α) : State α := { s with params := { s.params with update := u } }

@[simp] theorem setUpdate_b (u : Update) (s : State α) : (setUpdate u s).b = s.b := rfl

theorem setUpdate_setUpdate (u v : Update) (s : State α) : setUpdate u (setUpdate v s) = setUpdate u s := rfl

theorem tableStep_setUpdate (new : BitVec 2) (u : Update) (s : State α) :
    tableStep new (setUpdate u s) = setUpdate u (tableStep new s) := by
  have hload : loadPhase (setUpdate u s) = loadPhase s := rfl
  simp only [tableStep, hload]
  split_ifs <;> rfl

theorem stamped_setUpdate (ch : Channel) (ts : Slot) (u : Update) (s : State α) :
    stamped ch ts (setUpdate u s) = setUpdate u (stamped ch ts s) := by
  cases ch <;> rfl

/-- An edge run to its end does the same under either update, but for the parameter: `split` with no event between its
load and its store is the table step of `rmw` (20_memory.md R44, R49). -/
theorem wholeEdge_setUpdate (ch : Channel) (ts : Slot) (lvA lvB : Level) (rest : List Channel) (u : Update)
    (s : State α) : wholeEdge ch ts lvA lvB rest (setUpdate u s) = setUpdate u (wholeEdge ch ts lvA lvB rest s) := by
  have htest : debounceTest (Config.freeVerdict (setUpdate u s).fresh) ch (edgeTime (setUpdate u s).params ts)
      (setUpdate u s) = debounceTest (Config.freeVerdict s.fresh) ch (edgeTime s.params ts) s := by
    cases ch <;> rfl
  simp only [wholeEdge, beginEdge_eq, htest, stamped_setUpdate]
  split_ifs
  · simp only [finishEdge, advanceEdge_endEdge]
    rfl
  · cases hp : phaseOf lvA lvB with
    | none =>
      simp only [finishEdge_readFail hp]
      rfl
    | some new =>
      simp only [finishEdge_accepted hp, tableStep_setUpdate]
      rfl

theorem edgeFromTop_setUpdate (ch : Channel) (ts : Slot) (lvA lvB : Level) (u : Update) (s : State α) :
    edgeFromTop ch ts lvA lvB (setUpdate u s) = setUpdate u (edgeFromTop ch ts lvA lvB s) := by
  simp only [edgeFromTop, setUpdate_b, wholeEdge_setUpdate]
  split_ifs <;> rfl

theorem reachEdge_setUpdate (ch : Channel) (ts : Slot) (lvA lvB : Level) (u : Update) (s : State α) :
    reachEdge ch ts lvA lvB (setUpdate u s) = setUpdate u (reachEdge ch ts lvA lvB s) := by
  unfold reachEdge
  rw [setUpdate_b]
  cases s.b.consumer with
  | top => exact edgeFromTop_setUpdate ch ts lvA lvB u s
  | blocked => exact wholeEdge_setUpdate ch ts lvA lvB [] u s
  | servicing todo =>
    simp only []
    cases restAfter ch todo with
    | some later => exact wholeEdge_setUpdate ch ts lvA lvB later u s
    | none => exact edgeFromTop_setUpdate ch ts lvA lvB u (setConsumer .top s)
  | gone | inEdge => rfl

/-- A `QEDGE` record that meets no edge in flight runs alike under either update. -/
theorem exec_qedge_setUpdate {s : State} (hidle : s.NoEdgeInFlight) (ch : Channel) (ts : Slot) (lvA lvB : Level)
    (u : Update) :
    exec (.qedge ch ts lvA lvB) (setUpdate u s) = mapNext (setUpdate u) (exec (.qedge ch ts lvA lvB) s) := by
  have hidle' : (setUpdate u s).NoEdgeInFlight := hidle
  simp only [exec, execQedge, qedgeOver, setUpdate_b, settleEdge_of_noEdge hidle, settleEdge_of_noEdge hidle',
    reachEdge_setUpdate]
  split_ifs <;> rfl

/-- Settles O33: the record runs alike under either update, so from the state under `rmw` to that under `split`. -/
theorem splitAgreesWithRmwUndisturbed : Obligations.SplitAgreesWithRmwUndisturbed := by
  intro ch ts lvA lvB s t hidle hrmw
  have hidle' : (setUpdate .rmw s).NoEdgeInFlight := hidle
  calc exec (.qedge ch ts lvA lvB) (setUpdate .split s)
      = exec (.qedge ch ts lvA lvB) (setUpdate .split (setUpdate .rmw s)) := by rw [setUpdate_setUpdate]
    _ = mapNext (setUpdate .split) (exec (.qedge ch ts lvA lvB) (setUpdate .rmw s)) :=
      exec_qedge_setUpdate hidle' ch ts lvA lvB .split
    _ = .next (setUpdate .split t) := congrArg (mapNext (setUpdate .split)) hrmw

end Sys2Proof.Machine
end

section
/-! PROOFS. The family 20_memory.md: the two events of a table step under `split`, and a `QRESET` between them (R44). -/

namespace Sys2Proof.Machine

variable {α : Type}

/-! ### The load and the store -/

theorem splitLoad_of_count {new : BitVec 2} {s : State α} (h : qtab (loadPhase s) new ≠ 0) (rest : List Channel) :
    splitLoad new rest s =
      setConsumer (.inEdge rest (.countLoaded s.q.count (qtab (loadPhase s) new) new)) s := by
  simp [splitLoad, h]

/-- An illegal step is no count (40_qdec.md R84). -/
theorem qtab_of_illegalStep {old new : BitVec 2} (h : illegalStep old new = true) : qtab old new = 0 := by
  obtain ⟨-, hi, -⟩ | ⟨hq, -, -⟩ | ⟨hq, -, -⟩ := qtab_classes old new
  · simp [h] at hi
  · exact hq
  · exact hq

theorem splitLoad_of_illegal {new : BitVec 2} {s : State α} (h : illegalStep (loadPhase s) new = true)
    (rest : List Channel) :
    splitLoad new rest s = setConsumer (.inEdge rest (.illegalLoaded s.q.illegal new)) s := by
  simp [splitLoad, h, qtab_of_illegalStep h]

theorem splitLoad_of_samePhase (rest : List Channel) (s : State α) :
    splitLoad (loadPhase s) rest s = endEdge .noChange rest s := by
  obtain ⟨-, -, hne⟩ | ⟨-, -, hne⟩ | ⟨hq, hi, -⟩ := qtab_classes (loadPhase s) (loadPhase s)
  · exact absurd rfl hne
  · exact absurd rfl hne
  · simp [splitLoad, hq, hi]

theorem advanceEdge_countLoaded {rest : List Channel} {v delta : Int} {new : BitVec 2} {s : State α}
    (hc : s.b.consumer = .inEdge rest (.countLoaded v delta new)) (lvA lvB : Level) :
    advanceEdge lvA lvB s = endEdge .applied rest (storePhase new (storeCount (wrapCount s.params v delta) s)) := by
  simp [advanceEdge, hc]

theorem advanceEdge_illegalLoaded {rest : List Channel} {v : Nat} {new : BitVec 2} {s : State α}
    (hc : s.b.consumer = .inEdge rest (.illegalLoaded v new)) (lvA lvB : Level) :
    advanceEdge lvA lvB s = endEdge .illegal rest (storePhase new (storeIllegal (wrapIllegal s.params v) s)) := by
  simp [advanceEdge, hc]

/-- Inside an edge, the consumer's stimulus is the edge's next event. -/
theorem step_consumer_inEdge {s : State} {a : Answers} {rest : List Stimulus} {todo : List Channel} {stage : EdgeStage}
    (hin : s.inbox = .consumer a :: rest) (hlife : s.b.life = .running) (hc : s.b.consumer = .inEdge todo stage) :
    step s = .next (advanceEdge a.lvA a.lvB (fetched rest s)) := by
  rw [step_consumer hin, consumerTurn_inEdge (s := fetched rest s) a hlife hc]

/-! ### A whole command of a host agent -/

/-- A host's command stimulus is served after that host's command in flight. -/
theorem step_command {s : State} {g : HostAgent} {w : Record} {pace : Pace} {rest : List Stimulus}
    (h : s.inbox = .command g w pace :: rest) :
    step s = serveCommand exec g w pace (serveHost g (fetched rest s)) := by
  rw [step, stepWith, h]

/-- At the pace `whole` a command runs its operation. -/
theorem serveCommand_whole {run : Instr → State α → Host.Outcome (State α) Fault Refusal} {w : Record} {i : Instr}
    (h : commandOf w = some i) (g : HostAgent) (s : State α) : serveCommand run g w .whole s = run i s := by
  have hfirst : firstEvent g i .whole s = none := by cases i <;> rfl
  simp only [serveCommand, h, hfirst]

/-- What the step of a whole `QRESET` leaves: both counters 0, the command answered (40_qdec.md R92). -/
def resetBy (g : HostAgent) (rest : List Stimulus) (s : State α) : State α :=
  respondOk (.int 0) (storeIllegal 0 (storeCount 0 (servePort g (fetched rest s))))

@[simp] theorem resetBy_q (g : HostAgent) (rest : List Stimulus) (s : State α) :
    (resetBy g rest s).q = { s.q with count := 0, illegal := 0 } := rfl
@[simp] theorem resetBy_params (g : HostAgent) (rest : List Stimulus) (s : State α) :
    (resetBy g rest s).params = s.params := rfl

/-- The step of a whole `QRESET` of a host agent with no command in flight. -/
theorem step_qreset {s : State} {g : HostAgent} {w : Record} {rest : List Stimulus}
    (hin : s.inbox = .command g w .whole :: rest) (hidle : inFlight g s = none) (hw : decode w = .ok .qreset)
    (hobs : observable s = true) : step s = .next (resetBy g rest s) := by
  have hcommand : commandOf w = some .qreset := by
    rw [commandOf, hw]
    rfl
  have hhost : serveHost g (fetched rest s) = servePort g (fetched rest s) := by
    rw [serveHost, finishReset_idle (s := fetched rest s) hidle]
  have hobs' : observable (servePort g (fetched rest s)) = true := hobs
  rw [step_command hin, serveCommand_whole hcommand, hhost, exec, execQreset, qresetOver, admitted_of_observable hobs',
    resetBy]

theorem run_two {s t u : State} (hs : step s = .next t) (ht : step t = .next u) :
    Host.Core.run Sys2Proof.core 2 s = .next u := by
  have hs' : Sys2Proof.core.step s = .next t := hs
  have ht' : Sys2Proof.core.step t = .next u := ht
  simp [Host.Core.run, hs', ht']

/-- A whole `QRESET`, then the next event of the edge in flight. -/
theorem run_qreset_then_advanceEdge {s : State} {g : HostAgent} {w : Record} {a : Answers} {rest : List Stimulus}
    {todo : List Channel} {stage : EdgeStage} (hin : s.inbox = .command g w .whole :: .consumer a :: rest)
    (hidle : inFlight g s = none) (hw : decode w = .ok .qreset) (hlife : s.b.life = .running)
    (hc : s.b.consumer = .inEdge todo stage) :
    Host.Core.run Sys2Proof.core 2 s =
      .next (advanceEdge a.lvA a.lvB (fetched rest (resetBy g (.consumer a :: rest) s))) := by
  have hobs : observable s = true := by simp [observable, hlife]
  exact run_two (step_qreset hin hidle hw hobs)
    (step_consumer_inEdge (s := resetBy g (.consumer a :: rest) s) rfl hlife hc)

@[simp] theorem endEdge_q (l : Label) (rest : List Channel) (s : State α) : (endEdge l rest s).q = s.q := rfl

@[simp] theorem loadPhase_endEdge (l : Label) (rest : List Channel) (s : State α) :
    loadPhase (endEdge l rest s) = loadPhase s := rfl

/-- Settles O34: the three cases of the load, and the store of each counter after a `QRESET`, which writes that counter
alone. -/
theorem splitTableStepIsLoadThenStore : Obligations.SplitTableStepIsLoadThenStore := by
  intro s g w a rest todo hlife
  refine ⟨fun new hin hu hc hp => ?_, fun hin hidle hw => ⟨fun v delta new hc => ?_, fun v new hc => ?_⟩⟩
  · have hstep : step s = .next (splitLoad new todo (fetched rest s)) := by
      rw [step_consumer_inEdge hin hlife hc, advanceEdge_split (s := fetched rest s) hc hp hu]
    rw [hstep]
    refine ⟨fun hsame => ?_, fun hq => ?_, fun hi => ?_⟩
    · subst hsame
      exact congrArg Host.Outcome.next (splitLoad_of_samePhase todo (fetched rest s))
    · exact congrArg Host.Outcome.next (splitLoad_of_count (s := fetched rest s) hq todo)
    · exact congrArg Host.Outcome.next (splitLoad_of_illegal (s := fetched rest s) hi todo)
  · have hstore := advanceEdge_countLoaded (s := fetched rest (resetBy g (.consumer a :: rest) s)) hc a.lvA a.lvB
    exact ⟨_, run_qreset_then_advanceEdge hin hidle hw hlife hc, by simp [hstore]⟩
  · have hstore := advanceEdge_illegalLoaded (s := fetched rest (resetBy g (.consumer a :: rest) s)) hc a.lvA a.lvB
    exact ⟨_, run_qreset_then_advanceEdge hin hidle hw hlife hc, by simp [hstore]⟩

end Sys2Proof.Machine
end

section
/-! PROOFS. The family 30_encoding.md: the bit fields of a record (R60), and the decoder as the inverse of the encoder
(R63, R64, R66). -/

namespace Sys2Proof

open Sys2Proof.Machine

/-! ### Bit fields -/

/-- A word is two parts side by side iff its high and its low bits are these parts. -/
theorem eq_append_iff {n m : Nat} (w : BitVec (n + m)) (x : BitVec n) (y : BitVec m) :
    w = x ++ y ↔ w.extractLsb' m n = x ∧ w.extractLsb' 0 m = y := by
  constructor
  · rintro rfl
    exact ⟨BitVec.extractLsb'_append_eq_left, BitVec.extractLsb'_append_eq_right⟩
  · rintro ⟨rfl, rfl⟩
    exact BitVec.extractLsb'_append_extractLsb'.symm

/-- A field of a field is a field. -/
theorem extractLsb'_extractLsb' {n len' : Nat} (w : BitVec n) (start' : Nat) {start len : Nat}
    (h : start + len ≤ len') :
    (w.extractLsb' start' len').extractLsb' start len = w.extractLsb' (start' + start) len := by
  ext i hi
  simp only [BitVec.getElem_extractLsb', BitVec.getLsbD_extractLsb', decide_eq_true (show start + i < len' by omega),
    Bool.true_and, Nat.add_assoc]

/-- A field of one bit holds that bit. -/
theorem extractLsb'_eq_ofBool_iff {n : Nat} (w : BitVec n) (i : Nat) (x : Bool) :
    w.extractLsb' i 1 = BitVec.ofBool x ↔ w.getLsbD i = x := by
  rw [BitVec.getLsbD_eq_extractLsb']
  generalize w.extractLsb' i 1 = b
  decide +revert

/-- A record is made of four fields iff its `op` byte and its slots are these (30_encoding.md R60). -/
theorem eq_pack_iff (w : Record) (op : BitVec 8) (a b c : Slot) :
    w = Record.pack op a b c ↔ Record.op w = op ∧ Record.slotA w = a ∧ Record.slotB w = b ∧ Record.slotC w = c := by
  unfold Record.pack
  rw [eq_append_iff (n := 136) (m := 64), eq_append_iff (n := 72) (m := 64), eq_append_iff (n := 8) (m := 64)]
  simp [extractLsb'_extractLsb', Record.op, Record.slotA, Record.slotB, Record.slotC, and_assoc]

@[simp] theorem slotA_pack (op : BitVec 8) (a b c : Slot) : Record.slotA (Record.pack op a b c) = a := by
  obtain ⟨-, ha, -, -⟩ := (eq_pack_iff _ op a b c).mp rfl
  exact ha
@[simp] theorem slotB_pack (op : BitVec 8) (a b c : Slot) : Record.slotB (Record.pack op a b c) = b := by
  obtain ⟨-, -, hb, -⟩ := (eq_pack_iff _ op a b c).mp rfl
  exact hb
@[simp] theorem slotC_pack (op : BitVec 8) (a b c : Slot) : Record.slotC (Record.pack op a b c) = c := by
  obtain ⟨-, -, -, hc⟩ := (eq_pack_iff _ op a b c).mp rfl
  exact hc

/-! ### The slots of an event and of a construction -/

theorem Level.ofCode_eq_some_iff (x : BitVec 2) (l : Level) : Level.ofCode x = some l ↔ x = l.code := by
  revert x
  cases l <;> decide

theorem Slot.levels_eq_some_iff (c : Slot) (lvA lvB : Level) :
    Slot.levels c = some (lvA, lvB) ↔ c.extractLsb' 0 2 = lvA.code ∧ c.extractLsb' 2 2 = lvB.code := by
  rw [← Level.ofCode_eq_some_iff, ← Level.ofCode_eq_some_iff, Slot.levels]
  split <;> simp_all

/-- A `c` slot holds an acquisition answer and two level answers iff its other bits are 0 (30_encoding.md R63). -/
theorem eq_ofLevels_iff (c : Slot) (fails : Bool) (lvA lvB : Level) :
    c = Slot.ofLevels fails lvA lvB ↔
      c.extractLsb' 5 59 = 0 ∧ c.getLsbD 4 = fails ∧ Slot.levels c = some (lvA, lvB) := by
  unfold Slot.ofLevels
  rw [eq_append_iff (n := 62) (m := 2), eq_append_iff (n := 60) (m := 2), eq_append_iff (n := 59) (m := 1),
    extractLsb'_eq_ofBool_iff, Slot.levels_eq_some_iff]
  simp only [extractLsb'_extractLsb', Nat.reduceAdd, Nat.reduceLeDiff, BitVec.getLsbD_extractLsb']
  constructor
  · rintro ⟨⟨⟨hzero, hfails⟩, hB⟩, hA⟩
    exact ⟨hzero, by simpa using hfails, hA, hB⟩
  · rintro ⟨hzero, hfails, hA, hB⟩
    exact ⟨⟨⟨hzero, by simpa using hfails⟩, hB⟩, hA⟩

/-- An `a` slot names a channel iff its other bits are 0 (30_encoding.md R63, format `EV`). -/
theorem eq_channelSlot_iff (a : Slot) (ch : Channel) :
    a = (0#63 ++ BitVec.ofBool ch.bit : BitVec 64) ↔ a.extractLsb' 1 63 = 0 ∧ Channel.ofBit (a.getLsbD 0) = ch := by
  have hbit : ∀ x, x = ch.bit ↔ Channel.ofBit x = ch := by cases ch <;> decide
  rw [eq_append_iff (n := 63) (m := 1), extractLsb'_eq_ofBool_iff, hbit]
  rfl

/-- Format `EV` has no acquisition answer: its bit is one of those that must be 0 (30_encoding.md R63). -/
theorem edge_mustBeZero_iff (c : Slot) : c.extractLsb' 4 60 = 0 ↔ c.extractLsb' 5 59 = 0 ∧ c.getLsbD 4 = false := by
  have hzero : (0 : BitVec 60) = 0#59 ++ BitVec.ofBool false := rfl
  rw [hzero, eq_append_iff (n := 59) (m := 1), extractLsb'_eq_ofBool_iff]
  simp [extractLsb'_extractLsb']

theorem decodeEdge_eq_ok_iff (a b c : Slot) (i : Instr) :
    decodeEdge a b c = .ok i ↔ ∃ ch lvA lvB, i = .qedge ch b lvA lvB ∧
      a = (0#63 ++ BitVec.ofBool ch.bit : BitVec 64) ∧ c = Slot.ofLevels false lvA lvB := by
  simp only [eq_channelSlot_iff, eq_ofLevels_iff]
  constructor
  · intro h
    unfold decodeEdge at h
    split_ifs at h with hzero
    obtain ⟨ha, hc⟩ := not_or.mp hzero
    obtain ⟨hc5, hc4⟩ := (edge_mustBeZero_iff c).mp (not_not.mp hc)
    split at h
    · rename_i lvA lvB hlevels
      exact ⟨_, lvA, lvB, (Except.ok.inj h).symm, ⟨not_not.mp ha, rfl⟩, hc5, hc4, hlevels⟩
    · cases h
  · rintro ⟨ch, lvA, lvB, rfl, ⟨ha, rfl⟩, hc5, hc4, hlevels⟩
    simp [decodeEdge, ha, (edge_mustBeZero_iff c).mpr ⟨hc5, hc4⟩, hlevels]

theorem decodeConstruct_eq_ok_iff (c : Slot) (i : Instr) :
    decodeConstruct c = .ok i ↔ ∃ fails lvA lvB, i = .bconstruct fails lvA lvB ∧ c = Slot.ofLevels fails lvA lvB := by
  simp only [eq_ofLevels_iff]
  constructor
  · intro h
    unfold decodeConstruct at h
    split_ifs at h with hzero
    split at h
    · rename_i lvA lvB hlevels
      exact ⟨_, lvA, lvB, (Except.ok.inj h).symm, not_not.mp hzero, rfl, hlevels⟩
    · cases h
  · rintro ⟨fails, lvA, lvB, rfl, hc5, rfl, hlevels⟩
    simp [decodeConstruct, hc5, hlevels]

/-! ### The decoder -/

@[simp] theorem op_encode (i : Instr) : Record.op (encode i) = opcode i := by
  cases i <;> exact Laws.op_pack _ _ _ _

/-- A record decodes to an operation iff it has the operation's `op` byte, and in each slot that the format uses what
the operation's own record has there (30_encoding.md R60, R63, R66). -/
theorem decode_eq_ok_iff (w : Record) (i : Instr) :
    decode w = .ok i ↔ Record.op w = opcode i ∧
      (usesA i = true → Record.slotA w = Record.slotA (encode i)) ∧
      (usesB i = true → Record.slotB w = Record.slotB (encode i)) ∧
      (usesC i = true → Record.slotC w = Record.slotC (encode i)) := by
  constructor
  · intro h
    unfold decode at h
    split at h
    case h_5 hop => -- `QEDGE`
      obtain ⟨ch, lvA, lvB, rfl, ha, hc⟩ := (decodeEdge_eq_ok_iff ..).mp h
      exact ⟨BitVec.eq_of_toNat_eq hop, by simp [encode, ha, hc]⟩
    case h_17 hop => -- `BCONSTRUCT`
      obtain ⟨fails, lvA, lvB, rfl, hc⟩ := (decodeConstruct_eq_ok_iff ..).mp h
      exact ⟨BitVec.eq_of_toNat_eq hop, by simp [encode, hc, usesA, usesB, numOperands]⟩
    case h_20 => cases h -- a reserved opcode
    all_goals
      rename_i hop
      obtain rfl := Except.ok.inj h
      exact ⟨BitVec.eq_of_toNat_eq hop, by simp [encode, usesA, usesB, usesC, numOperands]⟩
  · rintro ⟨hop, ha, hb, hc⟩
    cases i with
    | qedge ch ts lvA lvB =>
      simp only [decode, hop, opcode]
      refine (decodeEdge_eq_ok_iff ..).mpr ⟨ch, lvA, lvB, ?_, ?_, ?_⟩
      · simp [hb rfl, encode]
      · simp [ha rfl, encode]
      · simp [hc rfl, encode]
    | bconstruct fails lvA lvB =>
      simp only [decode, hop, opcode]
      exact (decodeConstruct_eq_ok_iff ..).mpr ⟨fails, lvA, lvB, rfl, by simp [hc rfl, encode]⟩
    | _ => simp_all [decode, opcode, encode, usesA, usesB, usesC, numOperands]

/-- Settles O1: the record of an operation has its `op` byte and its slots. -/
theorem encodeThenDecodeGivesTheInstruction : Obligations.EncodeThenDecodeGivesTheInstruction := fun i =>
  (decode_eq_ok_iff (encode i) i).mpr ⟨op_encode i, fun _ => rfl, fun _ => rfl, fun _ => rfl⟩

/-- The record of an operation has 0 in the slots that its format does not use (30_encoding.md R63). -/
theorem encode_unused_slots (i : Instr) :
    (usesA i = false → Record.slotA (encode i) = 0) ∧ (usesB i = false → Record.slotB (encode i) = 0) ∧
    (usesC i = false → Record.slotC (encode i) = 0) := by
  cases i <;> simp [encode, usesA, usesB, usesC, numOperands]

/-- Settles O2: field by field, a used slot by `decode_eq_ok_iff`, the others 0. -/
theorem decodedRecordIsItsEncodingOnUsedSlots : Obligations.DecodedRecordIsItsEncodingOnUsedSlots := by
  intro w i h
  obtain ⟨hop, ha, hb, hc⟩ := (decode_eq_ok_iff w i).mp h
  obtain ⟨ha0, hb0, hc0⟩ := encode_unused_slots i
  refine (eq_pack_iff ..).mpr ⟨by rw [op_encode, hop], ?_, ?_, ?_⟩
  · split_ifs with huse
    · exact (ha huse).symm
    · exact ha0 (by simpa using huse)
  · split_ifs with huse
    · exact (hb huse).symm
    · exact hb0 (by simpa using huse)
  · split_ifs with huse
    · exact (hc huse).symm
    · exact hc0 (by simpa using huse)

/-- Settles O3: what `decode_eq_ok_iff` asks of a record speaks of its `op` byte and the used slots alone. -/
theorem unusedSlotsAreIgnored : Obligations.UnusedSlotsAreIgnored := by
  intro w w' i h hop' ha' hb' hc'
  obtain ⟨hop, ha, hb, hc⟩ := (decode_eq_ok_iff w i).mp h
  exact (decode_eq_ok_iff w' i).mpr ⟨hop'.trans hop, fun huse => (ha' huse).trans (ha huse),
    fun huse => (hb' huse).trans (hb huse), fun huse => (hc' huse).trans (hc huse)⟩

/-- Settles O4: the decoder runs on the eight records. -/
theorem recordsOfTheSpecDecode : Obligations.RecordsOfTheSpecDecode :=
  ⟨rfl, rfl, rfl, rfl, rfl, rfl, rfl, rfl⟩

/-! ### The patterns of a `NUM` -/

/-- A slot holds an ordered value iff it is that value's pattern (30_encoding.md R64, R65). -/
theorem numOfSlot_eq_some_iff (v : Slot) (x : Num64) : numOfSlot v = some x ↔ v = slotOfNum x := by
  obtain ⟨neg, mag, hmag⟩ := x
  have hlow : (v.extractLsb' 0 63).toNat = v.toNat % 2 ^ 63 := by simp
  have hmag63 : mag < 2 ^ 63 := lt_trans hmag (by decide)
  rw [slotOfNum, eq_append_iff (n := 1) (m := 63), extractLsb'_eq_ofBool_iff, ← BitVec.toNat_inj, hlow,
    BitVec.toNat_ofNat, Nat.mod_eq_of_lt hmag63, numOfSlot]
  split_ifs with hlt
  · simp
  · simp
    omega

/-- Settles O8: both directions of `numOfSlot_eq_some_iff`. -/
theorem numPatternsRoundTrip : Obligations.NumPatternsRoundTrip :=
  ⟨fun x => (numOfSlot_eq_some_iff _ x).mpr rfl, fun v x h => ((numOfSlot_eq_some_iff v x).mp h).symm⟩

end Sys2Proof
end

section
/-! PROOFS. The family 30_encoding.md: admission of a command (R62, R67), and what a step runs (R60; 20_memory.md R46). -/

namespace Sys2Proof.Machine

variable {α : Type}

/-! ### Which records stand for a command -/

theorem commandOf_eq_some_iff (w : Record) (i : Instr) :
    commandOf w = some i ↔ decode w = .ok i ∧ i.kind = .command := by
  unfold commandOf
  cases decode w with
  | error e => simp
  | ok j =>
    simp only [Option.ite_none_right_eq_some, Option.some.injEq, Except.ok.injEq]
    constructor
    · rintro ⟨hkind, rfl⟩
      exact ⟨rfl, hkind⟩
    · rintro ⟨rfl, hkind⟩
      exact ⟨hkind, rfl⟩

/-- The `op` bytes of the commands (30_encoding.md R67). -/
def CommandOp (op : BitVec 8) : Prop :=
  (1 ≤ op.toNat ∧ op.toNat ≤ 4) ∨ (0x20 ≤ op.toNat ∧ op.toNat ≤ 0x2A)

theorem kind_eq_command_iff (i : Instr) : i.kind = .command ↔ CommandOp (opcode i) := by
  cases i <;> simp [Instr.kind, opcode, CommandOp]

/-- Every `op` byte of a command decodes, whatever the slots hold. -/
theorem exists_decode_of_commandOp {w : Record} (h : CommandOp (Record.op w)) : ∃ i, decode w = .ok i := by
  unfold CommandOp at h
  unfold decode
  generalize (Record.op w).toNat = n at h
  obtain ⟨hlo, hhi⟩ | ⟨hlo, hhi⟩ := h <;> interval_cases n <;> exact ⟨_, rfl⟩

theorem commandOf_isSome_iff (w : Record) : (commandOf w).isSome = true ↔ CommandOp (Record.op w) := by
  rw [Option.isSome_iff_exists]
  constructor
  · rintro ⟨i, hi⟩
    obtain ⟨hdecode, hkind⟩ := (commandOf_eq_some_iff w i).mp hi
    rw [((decode_eq_ok_iff w i).mp hdecode).1]
    exact (kind_eq_command_iff i).mp hkind
  · intro h
    obtain ⟨i, hi⟩ := exists_decode_of_commandOp h
    refine ⟨i, (commandOf_eq_some_iff w i).mpr ⟨hi, (kind_eq_command_iff i).mpr ?_⟩⟩
    rwa [← ((decode_eq_ok_iff w i).mp hi).1]

/-! ### Serving a command -/

@[simp] theorem observable_serveHost (g : HostAgent) (rest : List Stimulus) (s : State α) :
    observable (serveHost g (fetched rest s)) = observable s := by
  simp [observable, serveHost]

@[simp] theorem serveHost_port (g : HostAgent) (s : State α) : (serveHost g s).port = g := rfl

theorem serveCommand_of_noCommand {run : Instr → State α → Host.Outcome (State α) Fault Refusal} {w : Record}
    (h : commandOf w = none) (g : HostAgent) (pace : Pace) (s : State α) :
    serveCommand run g w pace s = .next (rejectCommand s) := by
  simp only [serveCommand, h]

/-- A command runs its operation, but for a `QRESET` that stays in flight (40_qdec.md R92). -/
theorem serveCommand_of_runs {run : Instr → State α → Host.Outcome (State α) Fault Refusal} {w : Record} {i : Instr}
    {pace : Pace} {s : State α} (h : commandOf w = some i)
    (hruns : i = .qreset → pace = .whole ∨ observable s = false) (g : HostAgent) :
    serveCommand run g w pace s = run i s := by
  have hfirst : firstEvent g i pace s = none := by
    cases i with
    | qreset =>
      obtain rfl | hobs := hruns rfl
      · rfl
      · cases pace <;> simp only [firstEvent, hobs] <;> rfl
    | _ => rfl
  simp only [serveCommand, h, hfirst]

/-- A block that is not observable answers every command `NOT_READY` (30_encoding.md R62). -/
theorem execOver_of_not_observable (N : Nat → NumSys α) {i : Instr} {s : State α} (hkind : i.kind = .command)
    (hobs : observable s = false) : execOver N i s = .next (respond .notReady (.int 0) s) := by
  cases i with
  | qedge | bconstruct | bstop | brelease => cases hkind
  | _ =>
    apply admitted_of_not_observable
    exact hobs

theorem exec_of_not_observable {i : Instr} {s : State} (hkind : i.kind = .command) (hobs : observable s = false) :
    exec i s = .next (respond .notReady (.int 0) s) :=
  (exec_eq_execOver i s).trans (execOver_of_not_observable numSys hkind hobs)

/-- The one must-be-zero part that is left to admission is that of `QSET_DEBOUNCE` (30_encoding.md R63, R64). -/
theorem exec_of_not_wf {i : Instr} {s : State} (hkind : i.kind = .command) (hwf : i.wf s.params = false) :
    exec i s = .next (rejectCommand s) := by
  cases i with
  | qsetDebounce us =>
    have hfits : u1OfSlot s.params us = none := by simpa [u1OfSlot, Instr.wf] using hwf
    cases hobs : observable s with
    | false => rw [exec_of_not_observable hkind hobs, rejectCommand, hobs]; rfl
    | true => simp only [exec, execQsetDebounce, qsetDebounceOver, admitted_of_observable hobs, hfits]
  | qedge => cases hkind
  | _ => cases hwf

/-- An admitted, well-formed command that completes answers `OK` last (30_encoding.md R62). -/
theorem Leaves.answers_ok {N : Nat → NumSys α} {i : Instr} {s t : State α} (h : Leaves N s i t)
    (hkind : i.kind = .command) (hobs : observable s = true) (hwf : i.wf s.params = true) :
    ∃ v, t.out = s.out ++ [.response s.port ⟨.ok, v⟩] := by
  cases h with
  | notReady _ hnot => simp [hobs] at hnot
  | illegalCmd _ hfits => simp_all [u1OfSlot, Instr.wf]
  | noEffect hnot => exact absurd hkind hnot
  | qedge | constructed | notAcquired | levelsFailed | bstop | released | joining => cases hkind
  | _ => exact ⟨_, rfl⟩

/-- Settles O5: the opcodes by `commandOf_isSome_iff`; a record that stands for no command is rejected. -/
theorem reservedOpcodesAreRejected : Obligations.ReservedOpcodesAreRejected := by
  refine fun w => ⟨commandOf_isSome_iff w, fun s g pace rest hin hidle hobs hw => ?_⟩
  have hhost : serveHost g (fetched rest s) = servePort g (fetched rest s) := by
    rw [serveHost, finishReset_idle (s := fetched rest s) hidle]
  have hobs' : observable (servePort g (fetched rest s)) = true := hobs
  rw [step_command hin, serveCommand_of_noCommand hw, hhost, rejectCommand, if_pos hobs']
  rfl

/-- Settles O6: the first two clauses are rejections, by the record or by its operation; the third is an operation that
runs and completes. -/
theorem admissionOfCommands : Obligations.AdmissionOfCommands := by
  intro s g w pace rest hin s1
  rw [step_command hin]
  have hobs1 : observable s1 = observable s := observable_serveHost g rest s
  have hparams : s1.params = s.params := by simp [s1]
  refine ⟨fun hobs => ?_, fun hobs hbad => ?_, fun i t hobs hi hwf hwhole h => ?_⟩
  · rw [hobs] at hobs1
    cases hw : commandOf w with
    | none => rw [serveCommand_of_noCommand hw, rejectCommand, hobs1]; rfl
    | some i =>
      obtain ⟨-, hkind⟩ := (commandOf_eq_some_iff w i).mp hw
      rw [serveCommand_of_runs hw fun _ => .inr hobs1, exec_of_not_observable hkind hobs1]
      rfl
  · rw [hobs] at hobs1
    have hreject : serveCommand exec g w pace s1 = .next (rejectCommand s1) := by
      cases hw : commandOf w with
      | none => exact serveCommand_of_noCommand hw g pace s1
      | some i =>
        obtain ⟨-, hkind⟩ := (commandOf_eq_some_iff w i).mp hw
        have hwf : i.wf s1.params = false := hparams ▸ hbad i hw
        rw [serveCommand_of_runs hw (by rintro rfl; cases hwf), exec_of_not_wf hkind hwf]
    rw [hreject, rejectCommand, if_pos hobs1]
    rfl
  · obtain ⟨-, hkind⟩ := (commandOf_eq_some_iff w i).mp hi
    rw [serveCommand_of_runs hi fun hq => .inl (hwhole hq)] at h
    exact (leaves_of_exec h).answers_ok hkind (hobs1.trans hobs) (hparams ▸ hwf)

/-! ### What a step runs -/

theorem stimulusOf_eq_some_iff (p : Params α) (w : Record) (i : Instr) :
    stimulusOf p w = some i ↔ decode w = .ok i ∧ i.kind ≠ .command ∧ i.wf p = true := by
  unfold stimulusOf
  cases decode w with
  | error e => simp
  | ok j =>
    simp only [Option.ite_none_right_eq_some, Option.some.injEq, Except.ok.injEq]
    constructor
    · rintro ⟨hj, rfl⟩
      exact ⟨rfl, hj⟩
    · rintro ⟨rfl, hj⟩
      exact ⟨hj, rfl⟩

/-- An event or lifecycle stimulus is served in the fetched state. -/
theorem step_environment {s : State} {w : Record} {rest : List Stimulus} (h : s.inbox = .environment w :: rest) :
    step s = serveStimulus exec w (fetched rest s) := by
  rw [step, stepWith, h]

/-- Settles O9: the fetch, the host agent's own program order, and then `exec`. -/
theorem stepRunsTheDecodedOperation : Obligations.StepRunsTheDecodedOperation := by
  refine ⟨fun s g w pace i rest hin hw hkind hruns => ?_, fun s g rest => ⟨fun hidle => ?_, fun hleft => ?_,
    fun hleft => ?_⟩, fun s w i rest hin hw hkind hwf => ?_⟩
  · have hcommand := (commandOf_eq_some_iff w i).mpr ⟨hw, hkind⟩
    rw [step_command hin]
    exact serveCommand_of_runs hcommand (by simpa using hruns) g
  · rw [serveHost, finishReset_idle (s := fetched rest s) hidle]
    rfl
  · have hleft' : inFlight g (fetched rest s) = some .countLeft := hleft
    rw [serveHost, finishReset, hleft']
    cases g <;> rfl
  · have hleft' : inFlight g (fetched rest s) = some .illegalLeft := hleft
    rw [serveHost, finishReset, hleft']
    cases g <;> rfl
  · have hstimulus := (stimulusOf_eq_some_iff s.params w i).mpr ⟨hw, hkind, hwf⟩
    rw [step_environment hin, serveStimulus, fetched_params, hstimulus]
    rfl

end Sys2Proof.Machine
end

section
/-! PROOFS. The family 30_encoding.md: the one fault of a step (R60, R63), and the form of responses (R61, R65). -/

namespace Sys2Proof.Machine

variable {α : Type}

/-! ### Faults -/

/-- The outcome is no fault. -/
def NoFault (o : Host.Outcome (State α) Fault Refusal) : Prop := ∀ f, o ≠ .fault f

@[simp] theorem noFault_next (t : State α) : NoFault (.next t) := nofun

@[simp] theorem noFault_refused (r : Refusal) : NoFault (.refused r : Host.Outcome (State α) Fault Refusal) := nofun

@[simp] theorem noFault_finishP (p : UnitP α) (s : State α) : NoFault (finishP p s) := nofun

theorem noFault_admitted {s : State α} {k : State α → Host.Outcome (State α) Fault Refusal} (h : NoFault (k s)) :
    NoFault (admitted s k) := by
  unfold admitted
  split_ifs
  · exact h
  · exact noFault_next _

theorem noFault_withNum {N : NumSys α} {v : Slot} {k : α → Host.Outcome (State α) Fault Refusal}
    (h : ∀ x, NoFault (k x)) : NoFault (withNum N v k) := by
  unfold withNum
  split
  · exact h _
  · exact noFault_refused _

/-- No operation faults (93_implementation_defined.md, part 1), over any number system. -/
theorem noFault_execOver (N : Nat → NumSys α) (i : Instr) (s : State α) : NoFault (execOver N i s) := by
  cases i with
  | qedge =>
    simp only [execOver, qedgeOver]
    split_ifs <;> exact noFault_next _
  | bconstruct acquireFails lvA lvB =>
    simp only [execOver, bconstructOver]
    split_ifs
    · exact noFault_next _
    · cases phaseOf lvA lvB <;> exact noFault_next _
    · exact noFault_next _
  | bstop =>
    simp only [execOver, bstopOver]
    split_ifs <;> exact noFault_next _
  | brelease =>
    simp only [execOver, breleaseOver]
    cases s.b.life <;> exact noFault_next _
  | qrdCount | qrdIllegal | qreset | prdInteg | prdLastU | prdLastY =>
    apply noFault_admitted
    exact noFault_next _
  | qsetDebounce us =>
    apply noFault_admitted
    cases u1OfSlot s.params us <;> exact noFault_next _
  | pstep ref meas dt =>
    apply noFault_admitted
    refine noFault_withNum fun r => noFault_withNum fun m => noFault_withNum fun d => ?_
    cases pidStep (N s.fresh) s.params.epsDt s.p r m d with
    | none => exact noFault_refused _
    | some p => exact noFault_next _
  | psetKp | psetKi | psetKd | psetAwGain =>
    apply noFault_admitted
    exact noFault_withNum fun _ => noFault_finishP _ _
  | preset | psetOutLimits | psetIntLimits =>
    apply noFault_admitted
    exact noFault_withNum fun _ => noFault_withNum fun _ => noFault_finishP _ _

theorem noFault_exec (i : Instr) (s : State) : NoFault (exec i s) := exec_eq_execOver i s ▸ noFault_execOver numSys i s

theorem noFault_serveCommand {run : Instr → State α → Host.Outcome (State α) Fault Refusal}
    (hrun : ∀ i s, NoFault (run i s)) (g : HostAgent) (w : Record) (pace : Pace) (s : State α) :
    NoFault (serveCommand run g w pace s) := by
  unfold serveCommand
  split
  · exact noFault_next _
  · split
    · exact noFault_next _
    · exact hrun _ _

/-- Settles O16: a trace word is the one stimulus whose serving can fault, and does where it stands for none. -/
theorem stepFaultsOnlyOnNoStimulus : Obligations.StepFaultsOnlyOnNoStimulus := by
  intro s f
  constructor
  · intro h
    unfold step stepWith at h
    split at h
    case h_2 => exact absurd h (noFault_serveCommand noFault_exec _ _ _ _ f)
    case h_3 w rest hin =>
      refine ⟨w, rest, hin, ?_⟩
      unfold serveStimulus at h
      split at h
      · exact absurd h (noFault_exec _ _ f)
      · assumption
    all_goals cases h
  · rintro ⟨w, rest, hin, hw⟩
    rw [step_environment hin, serveStimulus, fetched_params, hw]

/-! ### The response word -/

/-- A count of `S(W_CNT)` is put out sign-extended (30_encoding.md R65). -/
theorem ofInt_eq_signExtend {n : Nat} (hn : 1 ≤ n) {c : Int} (hlo : -2 ^ (n - 1) ≤ c) (hhi : c < 2 ^ (n - 1))
    (width : Nat) : BitVec.ofInt width c = (BitVec.ofInt n c).signExtend width := by
  rw [BitVec.signExtend, BitVec.toInt_ofInt_eq_self hn hlo hhi]

/-- A count of `U(W_ILL)` is put out zero-extended (30_encoding.md R65). -/
theorem ofInt_eq_zeroExtend {n v : Nat} (hv : v < 2 ^ n) (width : Nat) :
    BitVec.ofInt width v = (BitVec.ofNat n v).zeroExtend width := by
  rw [BitVec.ofInt_natCast, BitVec.zeroExtend, ← BitVec.ofNat_toNat, BitVec.toNat_ofNat, Nat.mod_eq_of_lt hv]

theorem word_status (p : Params Num64) (r : Response Num64) :
    (Response.word p r).extractLsb' (valWidth p) 8 = Status.code r.status :=
  BitVec.extractLsb'_append_eq_left

theorem word_val (p : Params Num64) (r : Response Num64) :
    (Response.word p r).extractLsb' 0 (valWidth p) = Val.bits slotOfNum (valWidth p) r.val :=
  BitVec.extractLsb'_append_eq_right

/-! ### What is put out -/

/-- Everything put out meets `P`. -/
def OutAll (P : Output α → Prop) (s : State α) : Prop := ∀ o ∈ s.out, P o

theorem outAll_of_out_eq {P : Output α → Prop} {s t : State α} (hs : OutAll P s) (h : t.out = s.out) : OutAll P t := by
  simpa [OutAll, h] using hs

theorem outAll_of_out_append {P : Output α → Prop} {s t : State α} {o : Output α} (hs : OutAll P s)
    (h : t.out = s.out ++ [o]) (ho : P o) : OutAll P t := by
  simpa [OutAll, h, or_imp, forall_and, ho] using hs

theorem outAll_fetched (P : Output α → Prop) (rest : List Stimulus) (s : State α) : OutAll P (fetched rest s) := by
  simp [OutAll]

section
variable {P : Output α → Prop} (hP : ∀ l, P (.outcome l)) {s : State α} (hs : OutAll P s)
include hP hs

theorem outAll_endEdge (l : Label) (rest : List Channel) : OutAll P (endEdge l rest s) :=
  outAll_of_out_append hs rfl (hP l)

theorem outAll_advanceEdge (lvA lvB : Level) : OutAll P (advanceEdge lvA lvB s) := by
  obtain h | ⟨_, -, -, h⟩ | ⟨_, new, -, -, -, h⟩ | ⟨_, new, -, -, -, h⟩ | ⟨_, _, _, _, -, h⟩ | ⟨_, _, _, -, h⟩ :=
    advanceEdge_cases lvA lvB s
  all_goals rw [h]
  · exact hs
  · exact outAll_endEdge hP hs _ _
  · exact outAll_endEdge hP (outAll_of_out_eq hs (by simp [tableStep_frame])) _ _
  · unfold splitLoad
    simp only []
    split_ifs
    · exact hs
    · exact hs
    · exact outAll_endEdge hP hs _ _
  · apply outAll_endEdge hP
    exact hs
  · apply outAll_endEdge hP
    exact hs

theorem outAll_finishEdge (lvA lvB : Level) : OutAll P (finishEdge lvA lvB s) :=
  outAll_advanceEdge hP (outAll_advanceEdge hP hs lvA lvB) lvA lvB

theorem outAll_settleEdge : OutAll P (settleEdge s) := by
  obtain ⟨-, h⟩ | ⟨_, _, a, b, -, h⟩ := settleEdge_cases s
  · exact h.symm ▸ hs
  · exact h ▸ outAll_finishEdge hP (s := useFree 2 s) hs a b

theorem outAll_beginEdge (ch : Channel) (ts : Slot) (rest : List Channel) : OutAll P (beginEdge ch ts rest s) := by
  have hstamped : OutAll P (stamped ch ts s) := outAll_of_out_eq hs (by simp [stamped])
  rw [beginEdge_eq]
  split_ifs
  · exact outAll_endEdge hP hstamped _ _
  · exact hstamped

omit hP in
theorem outAll_joinRelease : OutAll P (joinRelease s) := by
  unfold joinRelease
  split_ifs <;> exact hs

theorem outAll_consumerTurn (a : Answers) : OutAll P (consumerTurn a s) := by
  by_cases hlife : s.b.life = .running
  · cases hc : s.b.consumer with
    | gone => rwa [consumerTurn_gone a hlife hc]
    | top =>
      rw [consumerTurn_top a hlife hc]
      split_ifs <;> exact hs
    | blocked => rw [consumerTurn_blocked a hlife hc]; exact hs
    | servicing todo =>
      cases todo with
      | nil => rw [consumerTurn_servicing_nil a hlife hc]; exact hs
      | cons ch rest =>
        cases ha : a.event with
        | none => rw [consumerTurn_noEvent a hlife hc ha]; exact hs
        | some ts => rw [consumerTurn_event a hlife hc ha]; exact outAll_beginEdge hP hs ch ts rest
    | inEdge rest stage =>
      rw [consumerTurn_inEdge a hlife hc]
      exact outAll_advanceEdge hP hs a.lvA a.lvB
  · rwa [consumerTurn_not_running a hlife]

end

/-- A response carries 0 unless it is `OK` (30_encoding.md R65). -/
def ZeroUnlessOk (o : Output α) : Prop := ∀ g r, o = .response g r → r.status ≠ .ok → r.val = .int 0

theorem zeroUnlessOk_outcome (l : Label) : ZeroUnlessOk (.outcome l : Output α) := nofun

theorem zeroUnlessOk_response (g : HostAgent) {r : Response α} (h : r.status ≠ .ok → r.val = .int 0) :
    ZeroUnlessOk (.response g r) := by
  rintro _ _ ⟨⟩
  exact h

/-- An operation puts out outcomes; a command may also put out a response, at the port of the host agent. -/
theorem Leaves.outAll {P : Output Num64 → Prop} (hP : ∀ l, P (.outcome l)) {i : Instr} {s t : State}
    (h : Leaves numSys s i t) (hs : OutAll P s)
    (hresponse : i.kind = .command → ∀ r : Response Num64, (r.status ≠ .ok → r.val = .int 0) → P (.response s.port r)) :
    OutAll P t := by
  have hok : i.kind = .command → ∀ v, P (.response s.port ⟨.ok, v⟩) :=
    fun hkind v => hresponse hkind _ fun hne => absurd rfl hne
  cases h with
  | notReady hkind => exact outAll_of_out_append hs rfl (hresponse hkind _ fun _ => rfl)
  | illegalCmd => exact outAll_of_out_append hs rfl (hresponse rfl _ fun _ => rfl)
  | read hkind => exact outAll_of_out_append hs rfl (hok hkind _)
  | qreset | qsetDebounce | pstep | preset | psetKp | psetKi | psetKd | psetAwGain | psetOutLimits | psetIntLimits =>
    exact outAll_of_out_append hs rfl (hok rfl _)
  | @qedge ch ts lvA lvB =>
    have hsettled := outAll_settleEdge hP hs
    obtain h | ⟨-, h⟩ | ⟨rest, -, h⟩ := reachEdge_cases ch ts lvA lvB (settleEdge s)
    all_goals rw [h]
    · exact hsettled
    · exact hsettled
    · exact outAll_finishEdge hP (outAll_beginEdge hP hsettled ch ts rest) lvA lvB
  | constructed | notAcquired | levelsFailed => exact outAll_of_out_append hs rfl (hP _)
  | bstop | released | joining | noEffect => exact hs

theorem outAll_finishReset {s : State α} (hs : OutAll ZeroUnlessOk s) (g : HostAgent) :
    OutAll ZeroUnlessOk (finishReset g s) := by
  have hok : ZeroUnlessOk (.response g ⟨.ok, .int 0⟩ : Output α) := zeroUnlessOk_response g fun _ => rfl
  obtain ⟨-, h⟩ | ⟨-, h⟩ | ⟨-, h⟩ := finishReset_cases g s
  all_goals rw [h]
  · exact hs
  · exact outAll_of_out_append hs (by simp) hok
  · exact outAll_of_out_append hs (by simp) hok

theorem outAll_quietTurn {s : State α} (hs : OutAll ZeroUnlessOk s) : OutAll ZeroUnlessOk (quietTurn s) := by
  unfold quietTurn
  split
  · exact outAll_finishReset hs _
  · exact outAll_consumerTurn zeroUnlessOk_outcome (s := useFree 2 (joinRelease s)) (outAll_joinRelease hs) _

theorem outAll_rejectCommand {s : State α} (hs : OutAll ZeroUnlessOk s) : OutAll ZeroUnlessOk (rejectCommand s) := by
  unfold rejectCommand
  split_ifs <;> exact outAll_of_out_append hs rfl (zeroUnlessOk_response _ fun _ => rfl)

theorem outAll_exec {i : Instr} {s t : State} (h : exec i s = .next t) (hs : OutAll ZeroUnlessOk s) :
    OutAll ZeroUnlessOk t :=
  (leaves_of_exec h).outAll zeroUnlessOk_outcome hs fun _ _ hr => zeroUnlessOk_response _ hr

/-- Every response of a step carries 0 unless it is `OK`. -/
theorem outAll_step {s t : State} (h : step s = .next t) : OutAll ZeroUnlessOk t := by
  obtain ⟨-, rfl⟩ | ⟨g, w, pace, rest, -, hserve⟩ | ⟨w, i, rest, -, -, hexec⟩ | ⟨a, rest, -, rfl⟩ |
    ⟨g, rest, -, rfl⟩ | ⟨rest, -, rfl⟩ := step_cases h
  · exact outAll_quietTurn (outAll_fetched _ _ s)
  · have hhost : OutAll ZeroUnlessOk (serveHost g (fetched rest s)) := outAll_finishReset (outAll_fetched _ rest s) g
    obtain ⟨-, rfl⟩ | ⟨left, -, -, rfl⟩ | ⟨i, -, hexec⟩ := serveCommand_cases hserve
    · exact outAll_rejectCommand hhost
    · exact outAll_of_out_eq hhost (by cases left <;> simp [beginReset])
    · exact outAll_exec hexec hhost
  · exact outAll_exec hexec (outAll_fetched _ rest s)
  · exact outAll_consumerTurn zeroUnlessOk_outcome (outAll_fetched _ rest s) a
  · exact outAll_finishReset (outAll_fetched _ rest s) g
  · exact outAll_joinRelease (outAll_fetched _ rest s)

/-- Settles O7: the fields of the word, then what each agent's event and each operation puts out. -/
theorem responsesHaveTheirForm : Obligations.ResponsesHaveTheirForm := by
  refine ⟨fun p r => ⟨?_, ?_, ?_, ?_⟩, ?_, ?_⟩
  · rw [word_status]
    cases r.status <;> rfl
  · intro c hw hlo hhi hr
    rw [word_val, hr]
    exact ofInt_eq_signExtend hw hlo hhi _
  · intro n hn hr
    rw [word_val, hr]
    exact ofInt_eq_zeroExtend hn _
  · intro x hr
    rw [word_val, hr]
    rfl
  · intro s t h g r hr
    exact outAll_step h _ hr g r rfl
  · intro s t w rest hin h g r hr
    rw [step_environment hin, serveStimulus] at h
    split at h
    · rename_i i hi
      obtain ⟨-, hkind, -⟩ := (stimulusOf_eq_some_iff ..).mp hi
      have hout : OutAll (fun o => ∀ g r, o ≠ .response g r) t :=
        (leaves_of_exec h).outAll (fun _ => nofun) (outAll_fetched _ rest s) fun hcommand => absurd hcommand hkind
      exact hout _ hr g r rfl
    · cases h

end Sys2Proof.Machine
end

section
/-! PROOFS. The family 30_encoding.md: a `QEDGE` record in the consumer's other states (R63; 40_qdec.md R80;
60_exceptions.md R172, R176), and the pseudo-operations (R69). -/

namespace Sys2Proof.Machine

variable {α : Type}

/-! ### An edge in flight ends -/

theorem setConsumer_self {c : Consumer} {s : State α} (h : s.b.consumer = c) : setConsumer c s = s := by
  subst h
  rfl

/-- The events that are left of an edge in flight bring it to its end (40_qdec.md R81; 20_memory.md R44). -/
theorem finishEdge_ends {rest : List Channel} {stage : EdgeStage} {s : State α}
    (hc : s.b.consumer = .inEdge rest stage) (lvA lvB : Level) :
    ∃ l t, finishEdge lvA lvB s = endEdge l rest t := by
  cases stage with
  | accepted =>
    rw [← setConsumer_self hc]
    cases hp : phaseOf lvA lvB with
    | none => exact ⟨_, _, finishEdge_readFail hp rest s⟩
    | some new => exact ⟨_, _, finishEdge_accepted hp rest s⟩
  | countLoaded v delta new =>
    exact ⟨_, _, by rw [finishEdge, advanceEdge_countLoaded hc, advanceEdge_endEdge]⟩
  | illegalLoaded v new =>
    exact ⟨_, _, by rw [finishEdge, advanceEdge_illegalLoaded hc, advanceEdge_endEdge]⟩

theorem settleEdge_noEdgeInFlight (s : State) : (settleEdge s).NoEdgeInFlight := by
  obtain ⟨hidle, h⟩ | ⟨rest, stage, a, b, hc, h⟩ := settleEdge_cases s
  · rw [h]
    exact hidle
  · obtain ⟨l, t, hend⟩ := finishEdge_ends (s := useFree 2 s) hc a b
    rw [h, hend]
    exact afterChannel_ne_inEdge rest

/-! ### A record that debounce rejects -/

@[simp] theorem stampOf_tableStep (ch : Channel) (new : BitVec 2) (s : State α) :
    stampOf ch (tableStep new s) = stampOf ch s := by
  simp only [tableStep]
  split_ifs <;> cases ch <;> rfl

@[simp] theorem tableStep_debounceUs (new : BitVec 2) (s : State α) :
    (tableStep new s).q.debounceUs = s.q.debounceUs := by
  simp only [tableStep]
  split_ifs <;> rfl

/-- The events of an edge past its timestamp store change neither a timestamp nor the interval (40_qdec.md R83, R85). -/
theorem advanceEdge_times (ch : Channel) (lvA lvB : Level) (s : State α) :
    stampOf ch (advanceEdge lvA lvB s) = stampOf ch s ∧
      (advanceEdge lvA lvB s).q.debounceUs = s.q.debounceUs := by
  have hend : ∀ l rest (t : State α), stampOf ch (endEdge l rest t) = stampOf ch t := fun _ _ _ => by cases ch <;> rfl
  obtain h | ⟨_, -, -, h⟩ | ⟨_, new, -, -, -, h⟩ | ⟨_, new, -, -, -, h⟩ | ⟨_, _, _, _, -, h⟩ | ⟨_, _, _, -, h⟩ :=
    advanceEdge_cases lvA lvB s
  all_goals rw [h]
  · exact ⟨rfl, rfl⟩
  · exact ⟨hend _ _ s, rfl⟩
  · simp [hend]
  · unfold splitLoad
    simp only []
    split_ifs <;> cases ch <;> exact ⟨rfl, rfl⟩
  · cases ch <;> exact ⟨rfl, rfl⟩
  · cases ch <;> exact ⟨rfl, rfl⟩

theorem tooSoon_settleEdge {ch : Channel} {ts : Slot} {s : State} (h : tooSoon ch ts s) :
    tooSoon ch ts (settleEdge s) := by
  have htimes : stampOf ch (settleEdge s) = stampOf ch s ∧ (settleEdge s).q.debounceUs = s.q.debounceUs := by
    obtain ⟨-, hs⟩ | ⟨_, _, a, b, -, hs⟩ := settleEdge_cases s
    · rw [hs]
      exact ⟨rfl, rfl⟩
    · obtain ⟨hstamp1, hint1⟩ := advanceEdge_times ch a b (useFree 2 s)
      obtain ⟨hstamp2, hint2⟩ := advanceEdge_times ch a b (advanceEdge a b (useFree 2 s))
      rw [hs, finishEdge, hstamp2, hint2, hstamp1, hint1]
      cases ch <;> exact ⟨rfl, rfl⟩
  simpa [tooSoon, htimes] using h

/-- An event that debounce rejects reads no level (40_qdec.md R82, R83). -/
theorem wholeEdge_of_tooSoon {ch : Channel} {ts : Slot} {s : State} (h : tooSoon ch ts s) (lvA lvB : Level)
    (rest : List Channel) : wholeEdge ch ts lvA lvB rest s = afterEdge ch ts rest .debounced s := by
  rw [wholeEdge, beginEdge_of_tooSoon h, ← endEdge_stamped, finishEdge, advanceEdge_endEdge, advanceEdge_endEdge]

/-- Wherever the consumer reads an event that debounce rejects, the levels of its record have no effect
(30_encoding.md R63). -/
theorem reachEdge_of_tooSoon {ch : Channel} {ts : Slot} {s : State} (h : tooSoon ch ts s) (lvA lvB a b : Level) :
    reachEdge ch ts lvA lvB s = reachEdge ch ts a b s := by
  simp only [reachEdge, edgeFromTop, wholeEdge_setConsumer, wholeEdge_of_tooSoon h]

/-- A consumer that comes to read no event has looked at `B.run = 0`, and exits (60_exceptions.md R176). -/
theorem reachEdge_of_exit {ch : Channel} {s : State} (hidle : s.NoEdgeInFlight) (hgone : s.b.consumer ≠ .gone)
    (h : edgeRest ch s = none) (ts : Slot) (lvA lvB : Level) :
    s.b.run = false ∧ reachEdge ch ts lvA lvB s = exitConsumer s := by
  cases hc : s.b.consumer with
  | gone => exact absurd hc hgone
  | inEdge rest stage => exact absurd hc (hidle rest stage)
  | blocked => simp [edgeRest, hc] at h
  | top =>
    obtain hrun : s.b.run = false := by simpa [edgeRest, hc] using h
    simp [reachEdge, hc, edgeFromTop, hrun]
  | servicing todo =>
    cases hlater : restAfter ch todo with
    | some later => simp [edgeRest, hc, hlater] at h
    | none =>
      obtain hrun : s.b.run = false := by simpa [edgeRest, hc, hlater] using h
      refine ⟨hrun, ?_⟩
      simp only [reachEdge, hc, hlater, edgeFromTop, setConsumer_b, hrun]
      rfl

theorem exec_qedge_of_running {s : State} (hlife : s.b.life = .running) (ch : Channel) (ts : Slot) (lvA lvB : Level) :
    exec (.qedge ch ts lvA lvB) s = .next (reachEdge ch ts lvA lvB (settleEdge s)) := by
  simp only [exec, execQedge, qedgeOver, if_pos hlife]

theorem exec_qedge_of_not_running {s : State} (hlife : s.b.life ≠ .running) (ch : Channel) (ts : Slot)
    (lvA lvB : Level) : exec (.qedge ch ts lvA lvB) s = .next s := by
  simp only [exec, execQedge, qedgeOver, if_neg hlife]

/-- Settles O30: an edge in flight ends and leaves the timestamps alone; then the record is read, or the consumer
exits. -/
theorem edgeInTheOtherConsumerStates : Obligations.EdgeInTheOtherConsumerStates := by
  intro ch ts lvA lvB s
  refine ⟨fun hlife => ⟨?_, settleEdge_noEdgeInFlight s⟩, fun rest stage hc => ?_, fun hsoon a b => ?_,
    fun hlife hidle hgone hrest => ?_, fun hlife => exec_qedge_of_not_running hlife ch ts lvA lvB⟩
  · have hlife' : (settleEdge s).b.life = .running := by simpa [settleEdge_frame] using hlife
    rw [exec_qedge_of_running hlife, exec_qedge_of_running hlife',
      settleEdge_of_noEdge (settleEdge_noEdgeInFlight s)]
  · exact ⟨Config.freeLevel s.fresh, Config.freeLevel (s.fresh + 1), by rw [settleEdge, hc]; rfl⟩
  · by_cases hlife : s.b.life = .running
    · rw [exec_qedge_of_running hlife, exec_qedge_of_running hlife,
        reachEdge_of_tooSoon (tooSoon_settleEdge hsoon) lvA lvB a b]
    · rw [exec_qedge_of_not_running hlife, exec_qedge_of_not_running hlife]
  · obtain ⟨hrun, hexit⟩ := reachEdge_of_exit hidle hgone hrest ts lvA lvB
    exact ⟨hrun, by rw [exec_qedge_of_running hlife, settleEdge_of_noEdge hidle, hexit]; rfl⟩

/-! ### The pseudo-operation `PSET_GAINS` -/

theorem exec_psetKp {s : State} {v : Slot} {x : Num64} (hobs : observable s = true) (hv : numOfSlot v = some x) :
    exec (.psetKp v) s = .next (respondOk (.int 0) (setUnitP { s.p with kp := x } s)) := by
  rw [exec, execPsetKp, psetKpOver, admitted_of_observable hobs, withNum_some hv, finishP]

theorem exec_psetKi {s : State} {v : Slot} {x : Num64} (hobs : observable s = true) (hv : numOfSlot v = some x) :
    exec (.psetKi v) s = .next (respondOk (.int 0) (setUnitP { s.p with ki := x } s)) := by
  rw [exec, execPsetKi, psetKiOver, admitted_of_observable hobs, withNum_some hv, finishP]

theorem exec_psetKd {s : State} {v : Slot} {x : Num64} (hobs : observable s = true) (hv : numOfSlot v = some x) :
    exec (.psetKd v) s = .next (respondOk (.int 0) (setUnitP { s.p with kd := x } s)) := by
  rw [exec, execPsetKd, psetKdOver, admitted_of_observable hobs, withNum_some hv, finishP]

theorem execAll_cons {i : Instr} {s t : State} (h : exec i s = .next t) (rest : List Instr) :
    execAll (i :: rest) s = execAll rest t := by
  rw [execAll, h]

/-- Settles O59: the three setters in turn; `QTIMEOUT` expands to no operation. -/
theorem pseudoOperationsExpand : Obligations.PseudoOperationsExpand := by
  refine ⟨fun s kp ki kd x y z hobs hx hy hz => ?_, fun _ => rfl⟩
  have hki := exec_psetKi (s := respondOk (.int 0) (setUnitP { s.p with kp := x } s)) hobs hy
  have hkd := exec_psetKd
    (s := respondOk (.int 0) (setUnitP { s.p with kp := x, ki := y } (respondOk (.int 0) (setUnitP _ s)))) hobs hz
  have hgains := (execAll_cons (exec_psetKp hobs hx) _).trans ((execAll_cons hki _).trans (execAll_cons hkd []))
  exact ⟨_, hgains, rfl, rfl⟩

end Sys2Proof.Machine
end

section
/-! PROOFS. The family 30_encoding.md: one wake of both channels and the two records of `QWAKE` (R69; 40_qdec.md
R80). -/

namespace Sys2Proof.Machine

variable {α : Type}

/-! ### An edge in time -/

/-- Past its debounce test an edge stores its timestamp, and makes the table step if its levels are read
(40_qdec.md R83 to R86). -/
def edgeInTime (ch : Channel) (ts : Slot) (lvA lvB : Level) (s : State α) : State α :=
  match phaseOf lvA lvB with
  | none => stamped ch ts s
  | some new => tableStep new (stamped ch ts s)

theorem edgeInTime_frame (ch : Channel) (ts : Slot) (lvA lvB : Level) (s : State α) :
    (edgeInTime ch ts lvA lvB s).b = s.b ∧ (edgeInTime ch ts lvA lvB s).params = s.params ∧
    (edgeInTime ch ts lvA lvB s).inbox = s.inbox ∧ (edgeInTime ch ts lvA lvB s).q.debounceUs = s.q.debounceUs := by
  unfold edgeInTime
  split <;> simp [stamped, tableStep_frame]

theorem tableStep_q_congr {s t : State α} (hq : s.q = t.q) (hp : s.params = t.params) (new : BitVec 2) :
    (tableStep new s).q = (tableStep new t).q := by
  have hload : loadPhase s = loadPhase t := by rw [loadPhase, hq, loadPhase]
  simp only [tableStep, hload]
  split_ifs <;> simp [hq, hp]

/-- What an edge in time makes of unit Q depends on unit Q and the parameters alone. -/
theorem edgeInTime_q_congr {s t : State α} (hq : s.q = t.q) (hp : s.params = t.params) (ch : Channel) (ts : Slot)
    (lvA lvB : Level) : (edgeInTime ch ts lvA lvB s).q = (edgeInTime ch ts lvA lvB t).q := by
  have hstamped : (stamped ch ts s).q = (stamped ch ts t).q := by cases ch <;> simp [stamped, hq, hp]
  unfold edgeInTime
  split
  · exact hstamped
  · exact tableStep_q_congr hstamped (by simp [stamped, hp]) _

theorem stampOf_congr {s t : State α} (h : s.q = t.q) (ch : Channel) : stampOf ch s = stampOf ch t := by
  cases ch <;> simp [stampOf, h]

theorem stampOf_edgeInTime_other {c ch : Channel} (h : c ≠ ch) (ts : Slot) (lvA lvB : Level) (s : State α) :
    stampOf c (edgeInTime ch ts lvA lvB s) = stampOf c s := by
  have hstamped : stampOf c (stamped ch ts s) = stampOf c s :=
    (stampOf_congr rfl c).trans (stampOf_storeStamp_other s ch c (edgeTime s.params ts) h)
  unfold edgeInTime
  split <;> simp [hstamped]

/-- An edge in time that was read in `s` has ended in `t`, with these channels of its wake to visit after it. -/
structure EdgeDone (ch : Channel) (ts : Slot) (lvA lvB : Level) (rest : List Channel) (s t : State) : Prop where
  q : t.q = (edgeInTime ch ts lvA lvB s).q
  b : t.b = { s.b with consumer := afterChannel rest }
  params : t.params = s.params

/-- An event of the other channel stays in time (40_qdec.md R82). -/
theorem EdgeDone.inTime_other {ch c : Channel} {ts ts' : Slot} {lvA lvB : Level} {rest : List Channel} {s t : State}
    (h : EdgeDone ch ts lvA lvB rest s t) (hc : c ≠ ch) (htime : inTime c ts' s) : inTime c ts' t := by
  have hstamp : stampOf c t = stampOf c s :=
    (stampOf_congr h.q c).trans (stampOf_edgeInTime_other hc ts lvA lvB s)
  have hinterval : t.q.debounceUs = s.q.debounceUs := by simp [h.q, edgeInTime_frame]
  simpa [inTime, hstamp, hinterval, h.params] using htime

/-- The consumer past the first event of an edge in time: the levels are to be read (40_qdec.md R81). -/
def edgeRead (ch : Channel) (ts : Slot) (rest : List Channel) (s : State α) : State α :=
  setConsumer (.inEdge rest .accepted) (stamped ch ts s)

theorem edgeRead_frame (ch : Channel) (ts : Slot) (rest : List Channel) (s : State α) :
    (edgeRead ch ts rest s).b = { s.b with consumer := .inEdge rest .accepted } ∧
    (edgeRead ch ts rest s).params = s.params ∧ (edgeRead ch ts rest s).inbox = s.inbox := by
  simp [edgeRead, stamped]

theorem edgeRead_fetched (ch : Channel) (ts : Slot) (rest : List Channel) (l l' : List Stimulus) (s : State α) :
    fetched l (edgeRead ch ts rest (fetched l' s)) = edgeRead ch ts rest (fetched l s) := by
  cases ch <;> rfl

/-- The levels that are read, or the failed read, bring an edge past its debounce test to its end. -/
theorem finishEdge_eq_endEdge (ch : Channel) (ts : Slot) (lvA lvB : Level) (rest : List Channel) (s : State α) :
    ∃ l, finishEdge lvA lvB (edgeRead ch ts rest s) = endEdge l rest (edgeInTime ch ts lvA lvB s) := by
  unfold edgeInTime edgeRead
  cases hp : phaseOf lvA lvB with
  | none => exact ⟨_, finishEdge_readFail hp rest _⟩
  | some new => exact ⟨_, finishEdge_accepted hp rest _⟩

theorem edgeDone_of_endEdge (ch : Channel) (ts : Slot) (lvA lvB : Level) (l : Label) (rest : List Channel) (s : State) :
    EdgeDone ch ts lvA lvB rest s (endEdge l rest (edgeInTime ch ts lvA lvB s)) :=
  ⟨rfl, by simp [endEdge, edgeInTime_frame], by simp [endEdge, edgeInTime_frame]⟩

theorem wholeEdge_done {ch : Channel} {ts : Slot} {s : State} (h : inTime ch ts s) (lvA lvB : Level)
    (rest : List Channel) : EdgeDone ch ts lvA lvB rest s (wholeEdge ch ts lvA lvB rest s) := by
  obtain ⟨l, hl⟩ := finishEdge_eq_endEdge ch ts lvA lvB rest s
  rw [wholeEdge, beginEdge_of_inTime h, ← edgeRead, hl]
  exact edgeDone_of_endEdge ch ts lvA lvB l rest s

/-! ### The edge in two turns of the consumer -/

theorem run_succ {s t : State} (h : step s = .next t) (k : Nat) :
    Host.Core.run Sys2Proof.core (k + 1) s = Host.Core.run Sys2Proof.core k t := by
  have h' : Sys2Proof.core.step s = .next t := h
  simp [Host.Core.run, h']

/-- Under `rmw`, an edge past its debounce test has one event left (20_memory.md R43, R49). -/
theorem advanceEdge_eq_finishEdge {rest : List Channel} {s : State α} (hc : s.b.consumer = .inEdge rest .accepted)
    (hu : s.params.update = .rmw) (lvA lvB : Level) : advanceEdge lvA lvB s = finishEdge lvA lvB s := by
  rw [finishEdge]
  cases hp : phaseOf lvA lvB with
  | none => rw [advanceEdge_readFail hc hp, advanceEdge_endEdge]
  | some new => rw [advanceEdge_rmw hc hp hu, advanceEdge_endEdge]

/-- An event in time, read by a consumer that services a wake, takes two turns under `rmw`. -/
theorem edge_in_two_turns {s : State} {ch : Channel} {ts : Slot} {todo : List Channel} {a a' : Answers}
    {rest : List Stimulus} (hlife : s.b.life = .running) (hc : s.b.consumer = .servicing (ch :: todo))
    (hu : s.params.update = .rmw) (htime : inTime ch ts s) (ha : a.event = some ts)
    (hin : s.inbox = .consumer a :: .consumer a' :: rest) :
    ∃ t : State, (∀ k, Host.Core.run Sys2Proof.core (k + 2) s = Host.Core.run Sys2Proof.core k t) ∧
      EdgeDone ch ts a'.lvA a'.lvB todo s t ∧ t.inbox = rest := by
  have hread : step s = .next (edgeRead ch ts todo (fetched (.consumer a' :: rest) s)) := by
    rw [step_consumer hin, consumerTurn_event (s := fetched _ s) a hlife hc ha,
      beginEdge_of_inTime (s := fetched _ s) htime, edgeRead]
  obtain ⟨hb, hp, hinbox⟩ := edgeRead_frame ch ts todo (fetched (.consumer a' :: rest) s)
  obtain ⟨l, hl⟩ := finishEdge_eq_endEdge ch ts a'.lvA a'.lvB todo (fetched rest s)
  have hend : step (edgeRead ch ts todo (fetched (.consumer a' :: rest) s)) =
      .next (endEdge l todo (edgeInTime ch ts a'.lvA a'.lvB (fetched rest s))) := by
    rw [step_consumer_inEdge (a := a') (rest := rest) hinbox (by simpa [hb] using hlife) (by rw [hb]),
      advanceEdge_eq_finishEdge (by rw [fetched_b, hb]) (by simpa [hp] using hu), edgeRead_fetched, hl]
  have hdone := edgeDone_of_endEdge ch ts a'.lvA a'.lvB l todo (fetched rest s)
  have hq : (edgeInTime ch ts a'.lvA a'.lvB (fetched rest s)).q = (edgeInTime ch ts a'.lvA a'.lvB s).q := by
    apply edgeInTime_q_congr <;> rfl
  refine ⟨_, fun k => (run_succ hread (k + 1)).trans (run_succ hend k), ⟨hdone.q.trans hq, hdone.b, hdone.params⟩, ?_⟩
  simp [endEdge, edgeInTime_frame]

/-! ### The wake -/

/-- The two records of `QWAKE`, read by a blocked consumer while `B.run = 1`, are two wakes (30_encoding.md R69). -/
theorem execAll_two_edges {s : State} {c₁ c₂ : Channel} {ts₁ ts₂ : Slot} (hlife : s.b.life = .running)
    (hrun : s.b.run = true) (hc : s.b.consumer = .blocked) (hne : c₂ ≠ c₁) (h₁ : inTime c₁ ts₁ s) (h₂ : inTime c₂ ts₂ s)
    (lvA₁ lvB₁ lvA₂ lvB₂ : Level) :
    ∃ t u, EdgeDone c₁ ts₁ lvA₁ lvB₁ [] s t ∧ EdgeDone c₂ ts₂ lvA₂ lvB₂ [] t u ∧
      execAll [.qedge c₁ ts₁ lvA₁ lvB₁, .qedge c₂ ts₂ lvA₂ lvB₂] s = .next u := by
  have hdone₁ := wholeEdge_done h₁ lvA₁ lvB₁ []
  have hexec₁ : exec (.qedge c₁ ts₁ lvA₁ lvB₁) s = .next (wholeEdge c₁ ts₁ lvA₁ lvB₁ [] s) := by
    rw [exec_qedge_of_running hlife, settleEdge_of_noEdge (by simp [State.NoEdgeInFlight, hc]), reachEdge, hc]
  generalize wholeEdge c₁ ts₁ lvA₁ lvB₁ [] s = t at hdone₁ hexec₁
  have hlife' : t.b.life = .running := by rw [hdone₁.b]; exact hlife
  have hrun' : t.b.run = true := by rw [hdone₁.b]; exact hrun
  have hc' : t.b.consumer = .top := by rw [hdone₁.b]; rfl
  have hexec₂ : exec (.qedge c₂ ts₂ lvA₂ lvB₂) t = .next (wholeEdge c₂ ts₂ lvA₂ lvB₂ [] t) := by
    rw [exec_qedge_of_running hlife', settleEdge_of_noEdge (by simp [State.NoEdgeInFlight, hc']), reachEdge, hc']
    simp only [edgeFromTop, hrun', if_true]
  exact ⟨t, _, hdone₁, wholeEdge_done (hdone₁.inTime_other hne h₂) lvA₂ lvB₂ [],
    (execAll_cons hexec₁ _).trans (execAll_cons hexec₂ [])⟩

/-- A wake of both channels, event by event, ends with unit Q and the block level of the two records. -/
theorem wake_eq_two_edges {s t : State} {c₁ c₂ : Channel} {ts₁ ts₂ : Slot} {a1 a2 a3 a4 a5 : Answers}
    {rest : List Stimulus} (hlife : s.b.life = .running) (hrun : s.b.run = true) (hc : s.b.consumer = .blocked)
    (hu : s.params.update = .rmw) (hne : c₂ ≠ c₁) (h₁ : inTime c₁ ts₁ s) (h₂ : inTime c₂ ts₂ s)
    (hin : s.inbox = .consumer a1 :: .consumer a2 :: .consumer a3 :: .consumer a4 :: .consumer a5 :: rest)
    (hready : Ready.channels a1.ready = [c₁, c₂]) (hev₁ : a2.event = some ts₁) (hev₂ : a4.event = some ts₂)
    (h : Host.Core.run Sys2Proof.core 5 s = .next t) :
    ∃ t', execAll [.qedge c₁ ts₁ a3.lvA a3.lvB, .qedge c₂ ts₂ a5.lvA a5.lvB] { s with inbox := rest } = .next t' ∧
      t'.q = t.q ∧ t'.b = t.b ∧ t.inbox = rest := by
  have hwake := step_consumer hin
  rw [consumerTurn_blocked (s := fetched _ s) a1 hlife hc, hready] at hwake
  obtain ⟨v, hv, hdone₁, hinv⟩ := edge_in_two_turns (a := a2) (a' := a3) (rest := .consumer a4 :: .consumer a5 :: rest)
    (s := setConsumer (.servicing [c₁, c₂]) (fetched _ s)) hlife rfl hu h₁ hev₁ rfl
  have hlifev : v.b.life = .running := by rw [hdone₁.b]; exact hlife
  have hcv : v.b.consumer = .servicing [c₂] := by rw [hdone₁.b]; rfl
  have huv : v.params.update = .rmw := by rw [hdone₁.params]; exact hu
  obtain ⟨w, hw, hdone₂, hinw⟩ :=
    edge_in_two_turns hlifev hcv huv (hdone₁.inTime_other hne h₂) hev₂ hinv
  have hend : Host.Core.run Sys2Proof.core 5 s = .next w :=
    calc Host.Core.run Sys2Proof.core 5 s
        = Host.Core.run Sys2Proof.core 4 _ := run_succ hwake 4
      _ = Host.Core.run Sys2Proof.core 2 v := hv 2
      _ = Host.Core.run Sys2Proof.core 0 w := hw 0
  obtain rfl : w = t := Host.Outcome.next.inj (hend.symm.trans h)
  obtain ⟨t₁, t₂, hrec₁, hrec₂, hexec⟩ := execAll_two_edges (s := { s with inbox := rest }) hlife hrun hc hne h₁ h₂
    a3.lvA a3.lvB a5.lvA a5.lvB
  have hp₁ : t₁.params = v.params := hrec₁.params.trans hdone₁.params.symm
  have hq₁ : t₁.q = v.q := by
    rw [hrec₁.q, hdone₁.q]
    apply edgeInTime_q_congr <;> rfl
  have hq₂ : t₂.q = w.q := by
    rw [hrec₂.q, hdone₂.q]
    exact edgeInTime_q_congr hq₁ hp₁ c₂ ts₂ a5.lvA a5.lvB
  refine ⟨t₂, hexec, hq₂, ?_, hinw⟩
  rw [hrec₂.b, hrec₁.b, hdone₂.b, hdone₁.b]
  rfl

/-- Settles O60: `wake_eq_two_edges` in either order of the visits. -/
theorem wakeIsItsTwoEdges : Obligations.WakeIsItsTwoEdges := by
  intro s t first evA evB a1 a2 a3 a4 a5 rest hlife hrun hc hu hA hB hin hanswers h
  cases first with
  | A =>
    obtain ⟨hready, hev₁, hA₁, hB₁, hev₂, hA₂, hB₂⟩ := hanswers
    rw [Pseudo.expand, ← hA₁, ← hB₁, ← hA₂, ← hB₂]
    exact wake_eq_two_edges hlife hrun hc hu nofun hA hB hin (by rw [hready]; rfl) hev₁ hev₂ h
  | B =>
    obtain ⟨hready, hev₁, hA₁, hB₁, hev₂, hA₂, hB₂⟩ := hanswers
    rw [Pseudo.expand, ← hA₁, ← hB₁, ← hA₂, ← hB₂]
    exact wake_eq_two_edges hlife hrun hc hu nofun hB hA hin (by rw [hready]; rfl) hev₁ hev₂ h

end Sys2Proof.Machine
end

section
/-! PROOFS. The family 40_qdec.md: the commands of unit Q (R90 to R93), and the transition table (R84). -/

namespace Sys2Proof.Machine

variable {α : Type}

/-! ### The read commands -/

/-- An admitted read command answers its element (40_qdec.md R90, R91; 41_pid.md R136, R141, R142). -/
theorem exec_read {i : Instr} {s : State} {v : Val Num64} (hobs : observable s = true)
    (hread : readValue s i = some v) : exec i s = .next (respondOk v s) := by
  cases i with
  | qrdCount | qrdIllegal | prdInteg | prdLastU | prdLastY =>
    obtain rfl := Option.some.inj hread
    rw [exec_eq_execOver]
    apply admitted_of_observable
    exact hobs
  | _ => cases hread

/-- Settles O19: each read answers its `readValue`, and a block that is not observable rejects every command. -/
theorem readCommandsAnswerAndChangeNothing : Obligations.ReadCommandsAnswerAndChangeNothing := by
  refine fun s => ⟨fun hobs => ?_, fun hobs i hi => ?_⟩
  · exact ⟨exec_read hobs rfl, exec_read hobs rfl, exec_read hobs rfl, exec_read hobs rfl, exec_read hobs rfl⟩
  · have hkind : i.kind = .command := by
      simp only [List.mem_cons, List.not_mem_nil, or_false] at hi
      obtain rfl | rfl | rfl | rfl | rfl := hi <;> rfl
    exact exec_of_not_observable hkind hobs

/-! ### `QSET_DEBOUNCE` -/

theorem u1OfSlot_of_lt {p : Params α} {us : Slot} (h : us.toNat < 2 ^ p.wDb) : u1OfSlot p us = some us.toNat := by
  simp [u1OfSlot, Slot.fits, h]

/-- Settles O22: a slot that fits is stored; one that does not is not well-formed, and rejected. -/
theorem qsetDebounceStoresTheInterval : Obligations.QsetDebounceStoresTheInterval := by
  refine fun s us hobs => ⟨fun hlt => ?_, fun hge => ?_⟩
  · simp only [exec, execQsetDebounce, qsetDebounceOver, admitted_of_observable hobs, u1OfSlot_of_lt hlt]
    rfl
  · have hwf : (Instr.qsetDebounce us).wf s.params = false := by simpa [Instr.wf, Slot.fits] using hge
    rw [exec_of_not_wf rfl hwf, rejectCommand, if_pos hobs]
    rfl

/-! ### `QRESET` -/

/-- Settles O20: the admitted command makes both stores and answers. -/
theorem qresetZeroesBothCounters : Obligations.QresetZeroesBothCounters := by
  intro s hobs
  rw [exec, execQreset, qresetOver, admitted_of_observable hobs]
  rfl

@[simp] theorem inFlight_beginReset (g : HostAgent) (left : ResetLeft) (s : State α) :
    inFlight g (beginReset g left s) = some left := by
  cases left <;> exact inFlight_setInFlight _ g _

theorem inFlight_beginReset_other {g k : HostAgent} (h : k ≠ g) (left : ResetLeft) (s : State α) :
    inFlight k (beginReset g left s) = inFlight k s := by
  cases left <;> cases k <;> exact inFlight_setInFlight_other _ g _ _ h

@[simp] theorem beginReset_out (g : HostAgent) (left : ResetLeft) (s : State α) :
    (beginReset g left s).out = s.out := by
  cases left <;> simp [beginReset]

/-- The step of a `QRESET` that stays in flight is its first event (40_qdec.md R92). -/
theorem step_qreset_begins {s : State} {g : HostAgent} {w : Record} {pace : Pace} {left : ResetLeft}
    {rest : List Stimulus} (hin : s.inbox = .command g w pace :: rest) (hpace : Pace.left pace = some left)
    (hidle : inFlight g s = none) (hobs : observable s = true) (hw : decode w = .ok .qreset) :
    step s = .next (beginReset g left (servePort g (fetched rest s))) := by
  have hcommand : commandOf w = some .qreset := (commandOf_eq_some_iff w .qreset).mpr ⟨hw, rfl⟩
  have hhost : serveHost g (fetched rest s) = servePort g (fetched rest s) := by
    rw [serveHost, finishReset_idle (s := fetched rest s) hidle]
  have hobs' : observable (servePort g (fetched rest s)) = true := hobs
  simp only [step_command hin, hhost, serveCommand, hcommand, firstEvent, hpace, hobs', if_true]

/-- What the first event of a `QRESET` leaves, but for its store. -/
theorem beginReset_frame (g : HostAgent) (left : ResetLeft) (rest : List Stimulus) (s : State α) :
    let t := beginReset g left (servePort g (fetched rest s))
    t.p = s.p ∧ t.b = s.b ∧ t.out = [] ∧ inFlight g t = some left ∧ ∀ k, k ≠ g → inFlight k t = inFlight k s := by
  refine ⟨by simp, by simp, by simp, by simp, fun k hk => ?_⟩
  rw [inFlight_beginReset_other hk]
  rfl

theorem step_resume {s : State} {g : HostAgent} {rest : List Stimulus} (h : s.inbox = .resume g :: rest) :
    step s = .next (finishReset g (fetched rest s)) := by
  rw [step, stepWith, h]

theorem finishReset_countLeft {g : HostAgent} {s : State α} (h : inFlight g s = some .countLeft) :
    finishReset g s = respondOk (.int 0) (servePort g (setInFlight g none (storeCount 0 s))) := by
  simp [finishReset, h]

theorem finishReset_illegalLeft {g : HostAgent} {s : State α} (h : inFlight g s = some .illegalLeft) :
    finishReset g s = respondOk (.int 0) (servePort g (setInFlight g none (storeIllegal 0 s))) := by
  simp [finishReset, h]

/-- Settles O21: the first event is `beginReset`, in the order that the pace names; the second, `finishReset`, makes the
store that is left. -/
theorem qresetIsTwoStores : Obligations.QresetIsTwoStores := by
  refine ⟨fun s g w rest hidle hobs hw => ⟨fun hin => ?_, fun hin => ?_⟩,
    fun s g rest hin => ⟨fun hleft => ?_, fun hleft => ?_⟩⟩
  · exact ⟨_, step_qreset_begins hin rfl hidle hobs hw, by simp [beginReset], beginReset_frame g .illegalLeft rest s⟩
  · exact ⟨_, step_qreset_begins hin rfl hidle hobs hw, by simp [beginReset], beginReset_frame g .countLeft rest s⟩
  · rw [step_resume hin, finishReset_illegalLeft (s := fetched rest s) hleft]
    exact ⟨_, rfl, by simp, by simp, by simp, by simp, inFlight_setInFlight _ g none⟩
  · rw [step_resume hin, finishReset_countLeft (s := fetched rest s) hleft]
    exact ⟨_, rfl, by simp, by simp, by simp, by simp, inFlight_setInFlight _ g none⟩

/-! ### The transition table -/

/-- Settles O24, by evaluating the sixteen entries. -/
theorem transitionTableClasses : Obligations.TransitionTableClasses :=
  ⟨by decide, by decide, by decide⟩

end Sys2Proof.Machine
end

section
/-! PROOFS. The family 40_qdec.md: one event that the consumer comes to read, by its debounce test and its levels (R81
to R86), and a `QRESET` beside a table step (R92). -/

namespace Sys2Proof.Machine

variable {α : Type}

/-! ### One table step -/

/-- The table step in one piece: the counter that changes wraps, and the phase is the new one (40_qdec.md R84, R85). -/
theorem tableStep_q (new : BitVec 2) (s : State α) :
    (tableStep new s).q = { s.q with
      count := if qtab (loadPhase s) new = 0 then s.q.count
        else wrapCount s.params s.q.count (qtab (loadPhase s) new)
      illegal := if illegalStep (loadPhase s) new then wrapIllegal s.params s.q.illegal else s.q.illegal
      phase := if new = loadPhase s then s.q.phase else new.zeroExtend 8 } := by
  obtain ⟨hq, hi, hn⟩ | ⟨hq, hi, hn⟩ | ⟨hq, hi, hn⟩ := qtab_classes (loadPhase s) new
  · simp [tableStep, hq, hi, hn]
  · simp [tableStep, hq, hi, hn]
  · subst hn
    simp [tableStep, hq, hi]

theorem tableStep_eq_setUnitQ (new : BitVec 2) (s : State α) : tableStep new s = setUnitQ (tableStep new s).q s := by
  simp only [tableStep]
  split_ifs <;> rfl

/-- A table step after the timestamp store ends in `afterTable`. -/
theorem endEdge_tableStep_stamped (ch : Channel) (ts : Slot) (rest : List Channel) (new : BitVec 2) (s : State) :
    endEdge (tableLabel (loadPhase s) new) rest (tableStep new (stamped ch ts s)) = afterTable ch ts rest new s := by
  rw [tableStep_eq_setUnitQ, tableStep_q, loadPhase_stamped]
  cases ch <;> rfl

/-! ### One `QEDGE` run whole -/

section
variable {ch : Channel} {ts : Slot} {s : State}

/-- A rejected event ends after its timestamp store (40_qdec.md R83). -/
theorem wholeEdge_of_rejected
    (h : debounceTest (Config.freeVerdict s.fresh) ch (edgeTime s.params ts) s = true) (lvA lvB : Level)
    (rest : List Channel) : wholeEdge ch ts lvA lvB rest s = afterEdge ch ts rest .debounced s := by
  rw [wholeEdge, beginEdge_eq, if_pos h, finishEdge, advanceEdge_endEdge, advanceEdge_endEdge, endEdge_stamped]

variable (h : debounceTest (Config.freeVerdict s.fresh) ch (edgeTime s.params ts) s = false) {lvA lvB : Level}
include h

/-- An accepted event with a failed level read ends after its timestamp store (40_qdec.md R86). -/
theorem wholeEdge_of_readFail (hp : phaseOf lvA lvB = none) (rest : List Channel) :
    wholeEdge ch ts lvA lvB rest s = afterEdge ch ts rest .readFail s := by
  rw [wholeEdge, beginEdge_eq, if_neg (by simp [h]), finishEdge_readFail hp, endEdge_stamped]

/-- An accepted event whose levels are read makes the table step (40_qdec.md R85). -/
theorem wholeEdge_of_levels {new : BitVec 2} (hp : phaseOf lvA lvB = some new) (rest : List Channel) :
    wholeEdge ch ts lvA lvB rest s = afterTable ch ts rest new s := by
  rw [wholeEdge, beginEdge_eq, if_neg (by simp [h]), finishEdge_accepted hp, loadPhase_stamped,
    endEdge_tableStep_stamped]

end

/-! ### A `QEDGE` record with no edge in flight -/

theorem noEdgeInFlight_of_edgeRest {ch : Channel} {rest : List Channel} {s : State} (h : edgeRest ch s = some rest) :
    s.NoEdgeInFlight := by
  intro todo stage hc
  simp [edgeRest, hc] at h

theorem reachEdge_of_edgeRest {ch : Channel} {rest : List Channel} {s : State} (h : edgeRest ch s = some rest)
    (ts : Slot) (lvA lvB : Level) : reachEdge ch ts lvA lvB s = wholeEdge ch ts lvA lvB rest s := by
  cases hc : s.b.consumer with
  | gone | inEdge => simp [edgeRest, hc] at h
  | blocked =>
    obtain rfl : [] = rest := by simpa [edgeRest, hc] using h
    simp [reachEdge, hc]
  | top =>
    obtain ⟨hrun, rfl⟩ : s.b.run = true ∧ [] = rest := by simpa [edgeRest, hc] using h
    simp [reachEdge, hc, edgeFromTop, hrun]
  | servicing todo =>
    cases hlater : restAfter ch todo with
    | some later =>
      obtain rfl : later = rest := by simpa [edgeRest, hc, hlater] using h
      simp [reachEdge, hc, hlater]
    | none =>
      obtain ⟨hrun, rfl⟩ : s.b.run = true ∧ [] = rest := by simpa [edgeRest, hc, hlater] using h
      simp [reachEdge, hc, hlater, edgeFromTop, hrun, wholeEdge_setConsumer]

/-- The record runs its event whole where the consumer comes to read it (40_qdec.md R80, R81). -/
theorem exec_qedge_of_edgeRest {ch : Channel} {rest : List Channel} {s : State} (hlife : s.b.life = .running)
    (hrest : edgeRest ch s = some rest) (ts : Slot) (lvA lvB : Level) :
    exec (.qedge ch ts lvA lvB) s = .next (wholeEdge ch ts lvA lvB rest s) := by
  rw [exec_qedge_of_running hlife, settleEdge_of_noEdge (noEdgeInFlight_of_edgeRest hrest),
    reachEdge_of_edgeRest hrest]

/-- Settles O26: debounce rejects the event. -/
theorem edgeTooSoonIsDebounced : Obligations.EdgeTooSoonIsDebounced := by
  intro ch ts lvA lvB rest s hlife hrest hsoon
  rw [exec_qedge_of_edgeRest hlife hrest, wholeEdge_of_rejected (debounceTest_of_tooSoon hsoon _)]

theorem phaseOf_of_fail {lvA lvB : Level} (h : lvA = .fail ∨ lvB = .fail) : phaseOf lvA lvB = none := by
  obtain rfl | rfl := h
  · rfl
  · cases lvA <;> rfl

/-- Settles O27: debounce accepts the event, and no phase is read. -/
theorem edgeWithFailedReadIsDropped : Obligations.EdgeWithFailedReadIsDropped := by
  intro ch ts lvA lvB rest s hlife hrest htime hfail
  rw [exec_qedge_of_edgeRest hlife hrest,
    wholeEdge_of_readFail (debounceTest_of_inTime htime _) (phaseOf_of_fail hfail)]

theorem phaseOf_of_bits (a b : Bool) :
    phaseOf (if a then .high else .low) (if b then .high else .low) = some (BitVec.ofBool a ++ BitVec.ofBool b) := by
  cases a <;> cases b <;> rfl

/-- Settles O28: debounce accepts the event, and the phase is read. -/
theorem edgeInTimeMakesTheTableStep : Obligations.EdgeInTimeMakesTheTableStep := by
  intro ch ts a b rest s hlife hrest htime
  rw [exec_qedge_of_edgeRest hlife hrest, wholeEdge_of_levels (debounceTest_of_inTime htime _) (phaseOf_of_bits a b)]

theorem debounceTest_of_ranBackwards {ch : Channel} {ts : Slot} {s : State} (h : ranBackwards ch ts s) (free : Bool) :
    debounceTest free ch (edgeTime s.params ts) s = free := by
  obtain ⟨hvalid, hlt⟩ := h
  rw [debounceTest_of_valid hvalid, if_neg (by omega)]

/-- Settles O29: the free value is the debounce test's answer, and the levels decide the rest. -/
theorem edgeRunningBackwardsIsEitherWay : Obligations.EdgeRunningBackwardsIsEitherWay := by
  intro ch ts lvA lvB rest s hlife hrest hback
  refine ⟨_, exec_qedge_of_edgeRest hlife hrest ts lvA lvB, ?_⟩
  have htest := debounceTest_of_ranBackwards hback (Config.freeVerdict s.fresh)
  cases hfree : Config.freeVerdict s.fresh with
  | true => exact .inl (wholeEdge_of_rejected (htest.trans hfree) lvA lvB rest)
  | false =>
    cases hp : phaseOf lvA lvB with
    | none => exact .inr (.inl ⟨rfl, wholeEdge_of_readFail (htest.trans hfree) hp rest⟩)
    | some new => exact .inr (.inr ⟨new, rfl, wholeEdge_of_levels (htest.trans hfree) hp rest⟩)

/-! ### A `QRESET` beside a table step -/

theorem inFlight_congr {s t : State α} (h : s.hosts = t.hosts) (g : HostAgent) : inFlight g s = inFlight g t := by
  cases g <;> simp [inFlight, h]

/-- Settles O35: after the `QRESET` the table step starts from two zeros; before it, its counts are wiped. -/
theorem rmwResetKeepsLaterEdgesOnly : Obligations.RmwResetKeepsLaterEdgesOnly := by
  intro s g w a rest todo new hidle hw hu hlife hc hp
  refine ⟨fun hin => ?_, fun hin => ?_⟩
  · have hend := advanceEdge_rmw (s := fetched rest (resetBy g (.consumer a :: rest) s)) hc hp hu
    have hload : loadPhase (fetched rest (resetBy g (.consumer a :: rest) s)) = loadPhase s := rfl
    exact ⟨_, run_qreset_then_advanceEdge hin hidle hw hlife hc, by simp [hend, tableStep_q, hload],
      by simp [hend, tableStep_q, hload]⟩
  · have hturn := step_consumer_inEdge hin hlife hc
    obtain ⟨-, hhosts, -, hinbox, -, -, hlife', -⟩ :=
      advanceEdge_frame a.lvA a.lvB (fetched (.command g w .whole :: rest) s)
    generalize advanceEdge a.lvA a.lvB (fetched (.command g w .whole :: rest) s) = u at hturn hhosts hinbox hlife'
    have hidle' : inFlight g u = none := (inFlight_congr hhosts g).trans hidle
    have hobs : observable u = true := by simp [observable, hlife', hlife]
    exact ⟨_, run_two hturn (step_qreset hinbox hidle' hw hobs), rfl, rfl⟩

end Sys2Proof.Machine
end

section
/-! PROOFS. The family 40_qdec.md: clean quadrature cycles (R87). A list of events that each turn the phase by one state
moves the position counter by its length; the cycles are such a list. -/

namespace Sys2Proof.Machine

variable {α : Type}

/-! ### Wrapped sums -/

theorem wrapCount_wrapCount (p : Params α) (v a b : Int) :
    wrapCount p (wrapCount p v a) b = wrapCount p v (a + b) := by
  simp [wrapCount, wrapS, add_assoc]

/-- A counter in its range is its own wrap (10_state.md R11). -/
theorem wrapCount_zero_of_inRange {s : State} (hw : 1 ≤ s.params.wCnt) (h : s.CountersInRange) :
    wrapCount s.params s.q.count 0 = s.q.count := by
  obtain ⟨hlo, hhi, -⟩ := h
  exact wrapS_unique hw hlo hhi (by simp)

/-! ### One event whose levels are read -/

/-- An event of a channel with the phase that its levels show. -/
structure ReadEdge where
  ch  : Channel
  ts  : Slot
  new : BitVec 2

/-- Channel A's level is bit 1 of the phase (10_state.md R12). -/
def ReadEdge.lvA (e : ReadEdge) : Level := if e.new.getLsbD 1 then .high else .low

/-- Channel B's level is bit 0 of the phase (10_state.md R12). -/
def ReadEdge.lvB (e : ReadEdge) : Level := if e.new.getLsbD 0 then .high else .low

/-- The record of the event (30_encoding.md R63, format `EV`). -/
def ReadEdge.record (e : ReadEdge) : Instr := .qedge e.ch e.ts e.lvA e.lvB

theorem ReadEdge.phaseOf_levels (e : ReadEdge) : phaseOf e.lvA e.lvB = some e.new := by
  have hbits : ∀ new : BitVec 2, BitVec.ofBool (new.getLsbD 1) ++ BitVec.ofBool (new.getLsbD 0) = new := by decide
  rw [lvA, lvB, phaseOf_of_bits, hbits]

/-- The consumer of a `RUNNING` block is about to wait for an event, or waits. -/
def State.Awaits (s : State) : Prop :=
  s.b.life = .running ∧ s.b.run = true ∧ (s.b.consumer = .top ∨ s.b.consumer = .blocked)

theorem State.Awaits.edgeRest {s : State} (h : s.Awaits) (ch : Channel) : edgeRest ch s = some [] := by
  obtain ⟨-, hrun, hc | hc⟩ := h <;> simp [Machine.edgeRest, hc, hrun]

/-- From `s` to `t` the position counter moves by `d`, the illegal counter stays and the phase becomes `new`. -/
structure CountsBy (d : Int) (new : BitVec 2) (s t : State) : Prop where
  count : t.q.count = wrapCount s.params s.q.count d
  illegal : t.q.illegal = s.q.illegal
  phase : loadPhase t = new

/-- The event `e`, read in `s`, has ended in `t` with the outcome `l` (40_qdec.md R82 to R85). -/
structure ReadEdge.Ends (e : ReadEdge) (l : Label) (s t : State) : Prop where
  awaits : t.Awaits
  out : t.out = s.out ++ [.outcome l]
  params : t.params = s.params
  interval : t.q.debounceUs = s.q.debounceUs
  stamp : stampOf e.ch t = ⟨edgeTime s.params e.ts, true⟩
  other : ∀ c, c ≠ e.ch → stampOf c t = stampOf c s
  accepted : inTime e.ch e.ts s → l ≠ .debounced
  counts : l ≠ .debounced → qtab (loadPhase s) e.new ≠ 0 → CountsBy (qtab (loadPhase s) e.new) e.new s t

theorem tableLabel_ne_debounced (old new : BitVec 2) : tableLabel old new ≠ .debounced := by
  unfold tableLabel
  split_ifs <;> nofun

theorem afterTable_counts (ch : Channel) (ts : Slot) (rest : List Channel) {new : BitVec 2} {s : State}
    (h : qtab (loadPhase s) new ≠ 0) :
    CountsBy (qtab (loadPhase s) new) new s (afterTable ch ts rest new s) := by
  obtain ⟨-, hi, -⟩ | ⟨hq, -⟩ | ⟨hq, -⟩ := qtab_classes (loadPhase s) new
  · refine ⟨by simp [afterTable, h], by simp [afterTable, hi], ?_⟩
    rw [← endEdge_tableStep_stamped, loadPhase_endEdge, loadPhase_tableStep]
  · exact absurd hq h
  · exact absurd hq h

theorem stampOf_afterTable (c ch : Channel) (ts : Slot) (rest : List Channel) (new : BitVec 2) (s : State) :
    stampOf c (afterTable ch ts rest new s) = stampOf c (storeStamp ch (edgeTime s.params ts) s) := by
  cases c <;> rfl

/-- A waiting consumer processes the event to its end. -/
theorem ReadEdge.exec_record (e : ReadEdge) {s : State} (h : s.Awaits) :
    ∃ l t, exec e.record s = .next t ∧ e.Ends l s t := by
  have hrest := h.edgeRest e.ch
  obtain ⟨hlife, hrun, -⟩ := h
  have hexec := exec_qedge_of_edgeRest hlife hrest e.ts e.lvA e.lvB
  have hother := fun c (hc : c ≠ e.ch) => stampOf_storeStamp_other s e.ch c (edgeTime s.params e.ts) hc
  cases htest : debounceTest (Config.freeVerdict s.fresh) e.ch (edgeTime s.params e.ts) s with
  | true =>
    rw [wholeEdge_of_rejected htest] at hexec
    exact ⟨_, _, hexec, {
      awaits := ⟨hlife, hrun, .inl rfl⟩
      out := rfl
      params := by simp [afterEdge]
      interval := by simp [afterEdge]
      stamp := (stampOf_congr rfl e.ch).trans (stampOf_storeStamp s e.ch _)
      other := fun c hc => (stampOf_congr rfl c).trans (hother c hc)
      accepted := fun htime => absurd htest (by simp [debounceTest_of_inTime htime])
      counts := fun hl => absurd rfl hl }⟩
  | false =>
    rw [wholeEdge_of_levels htest e.phaseOf_levels] at hexec
    exact ⟨_, _, hexec, {
      awaits := ⟨hlife, hrun, .inl rfl⟩
      out := rfl
      params := by simp [afterTable, afterEdge]
      interval := by simp [afterTable, afterEdge]
      stamp := (stampOf_afterTable e.ch e.ch e.ts [] e.new s).trans (stampOf_storeStamp s e.ch _)
      other := fun c hc => (stampOf_afterTable c e.ch e.ts [] e.new s).trans (hother c hc)
      accepted := fun _ => tableLabel_ne_debounced _ _
      counts := fun _ => afterTable_counts e.ch e.ts [] }⟩

/-! ### A list of events -/

/-- From the phase `old` each event turns the phase by one state in the direction `d`, and the last shows `new`. -/
def TurnsPhase (d : Int) : BitVec 2 → List ReadEdge → BitVec 2 → Prop
  | old, [], new => old = new
  | old, e :: rest, new => qtab old e.new = d ∧ TurnsPhase d e.new rest new

/-- The timestamps of a channel's events. -/
def timesOf (p : Params Num64) (ch : Channel) (edges : List ReadEdge) : List Nat :=
  (edges.filter (·.ch = ch)).map fun e => edgeTime p e.ts

theorem timesOf_cons (p : Params Num64) (ch : Channel) (e : ReadEdge) (rest : List ReadEdge) :
    timesOf p ch (e :: rest) = if e.ch = ch then edgeTime p e.ts :: timesOf p ch rest else timesOf p ch rest := by
  simp only [timesOf, List.filter_cons, decide_eq_true_eq]
  split_ifs <;> rfl

/-- On each channel every event comes at least the interval after the one before (40_qdec.md R82). -/
def EdgesSpaced (edges : List ReadEdge) (s : State) : Prop :=
  ∀ ch, spaced s.q.debounceUs (stampOf ch s) (timesOf s.params ch edges)

theorem EdgesSpaced.inTime {e : ReadEdge} {rest : List ReadEdge} {s : State} (h : EdgesSpaced (e :: rest) s) :
    inTime e.ch e.ts s := by
  have hch := h e.ch
  rw [timesOf_cons, if_pos rfl] at hch
  exact hch.1

theorem EdgesSpaced.tail {e : ReadEdge} {rest : List ReadEdge} {l : Label} {s t : State}
    (h : EdgesSpaced (e :: rest) s) (hend : e.Ends l s t) : EdgesSpaced rest t := by
  intro ch
  have hch := h ch
  rw [timesOf_cons] at hch
  rw [hend.interval, hend.params]
  split_ifs at hch with hc
  · subst hc
    rw [hend.stamp]
    exact hch.2
  · rw [hend.other ch (Ne.symm hc)]
    exact hch

theorem CountsBy.trans {a b : Int} {m n : BitVec 2} {s u t : State} (h : CountsBy a m s u) (hp : u.params = s.params)
    (h' : CountsBy b n u t) : CountsBy (a + b) n s t :=
  ⟨by rw [h'.count, hp, h.count, wrapCount_wrapCount], h'.illegal.trans h.illegal, h'.phase⟩

/-- A waiting consumer processes the events one after the other; accepted, they count in the direction in which they
turn the phase, and spaced, they are accepted. -/
theorem execAll_records (edges : List ReadEdge) {s : State} (h : s.Awaits) :
    ∃ t outs, execAll (edges.map ReadEdge.record) s = .next t ∧ t.out = s.out ++ outs ∧
      (.outcome .debounced ∉ outs → wrapCount s.params s.q.count 0 = s.q.count →
        ∀ d new, d ≠ 0 → TurnsPhase d (loadPhase s) edges new → CountsBy (d * edges.length) new s t) ∧
      (EdgesSpaced edges s → .outcome .debounced ∉ outs) := by
  induction edges generalizing s with
  | nil => exact ⟨s, [], rfl, by simp, fun _ hrange d new _ hturns => ⟨by simp [hrange], rfl, hturns⟩, by simp⟩
  | cons e rest ih =>
    obtain ⟨l, u, hexec, hend⟩ := e.exec_record h
    obtain ⟨t, outs, hrest, hout, hcounts, haccepted⟩ := ih hend.awaits
    have hnone_iff : .outcome .debounced ∉ .outcome l :: outs ↔ l ≠ .debounced ∧ .outcome .debounced ∉ outs := by
      simp [eq_comm]
    refine ⟨t, .outcome l :: outs, (execAll_cons hexec _).trans hrest, by simp [hout, hend.out], ?_, fun hspaced => ?_⟩
    · rintro hnone - d new hd ⟨rfl, hturns⟩
      obtain ⟨hl, hnone'⟩ := hnone_iff.mp hnone
      have hfirst := hend.counts hl hd
      have hrange : wrapCount u.params u.q.count 0 = u.q.count := by
        rw [hend.params, hfirst.count, wrapCount_wrapCount, add_zero]
      have hlater := hcounts hnone' hrange _ new hd (by rwa [hfirst.phase])
      have hsum : qtab (loadPhase s) e.new * (e :: rest).length =
          qtab (loadPhase s) e.new + qtab (loadPhase s) e.new * rest.length := by
        push_cast [List.length_cons]
        ring
      rw [hsum]
      exact hfirst.trans hend.params hlater
    · exact hnone_iff.mpr ⟨hend.accepted hspaced.inTime, haccepted (hspaced.tail hend)⟩

/-! ### The cycles -/

/-- One cycle that starts on the channel `c₁` with the phase `n₁`, and ends at `00` (40_qdec.md R87(b)). -/
def cycleEdges (c₁ c₂ : Channel) (n₁ n₃ : BitVec 2) (c : CycleTimes) : List ReadEdge :=
  [⟨c₁, c.t1, n₁⟩, ⟨c₂, c.t2, 3⟩, ⟨c₁, c.t3, n₃⟩, ⟨c₂, c.t4, 0⟩]

theorem forwardCycle_eq (c : CycleTimes) : forwardCycle c = (cycleEdges .B .A 1 2 c).map ReadEdge.record := by
  simp [forwardCycle, cycleEdges, ReadEdge.record, ReadEdge.lvA, ReadEdge.lvB]

theorem backwardCycle_eq (c : CycleTimes) : backwardCycle c = (cycleEdges .A .B 2 1 c).map ReadEdge.record := by
  simp [backwardCycle, cycleEdges, ReadEdge.record, ReadEdge.lvA, ReadEdge.lvB]

/-- There is no third channel (00_scope.md R9). -/
theorem eq_or_eq_of_channels_ne {c₁ c₂ : Channel} (hne : c₂ ≠ c₁) (ch : Channel) : ch = c₁ ∨ ch = c₂ := by
  cases ch <;> cases c₁ <;> cases c₂ <;> simp at hne ⊢

section
variable {c₁ c₂ : Channel} {n₁ n₃ : BitVec 2} (cycles : List CycleTimes)

theorem cycles_length : (cycles.flatMap (cycleEdges c₁ c₂ n₁ n₃)).length = 4 * cycles.length := by
  simp [List.length_flatMap, cycleEdges, mul_comm]

theorem cycles_turn {d : Int} (h₁ : qtab 0 n₁ = d) (h₂ : qtab n₁ 3 = d) (h₃ : qtab 3 n₃ = d) (h₄ : qtab n₃ 0 = d) :
    TurnsPhase d 0 (cycles.flatMap (cycleEdges c₁ c₂ n₁ n₃)) 0 := by
  induction cycles with
  | nil => rfl
  | cons c rest ih => exact ⟨h₁, h₂, h₃, h₄, ih⟩

theorem timesOf_cycles_odd (hne : c₂ ≠ c₁) (p : Params Num64) :
    timesOf p c₁ (cycles.flatMap (cycleEdges c₁ c₂ n₁ n₃)) = oddTimes p cycles := by
  simp [timesOf, oddTimes, List.filter_flatMap, List.map_flatMap, cycleEdges, hne]

theorem timesOf_cycles_even (hne : c₂ ≠ c₁) (p : Params Num64) :
    timesOf p c₂ (cycles.flatMap (cycleEdges c₁ c₂ n₁ n₃)) = evenTimes p cycles := by
  simp [timesOf, evenTimes, List.filter_flatMap, List.map_flatMap, cycleEdges, hne.symm]

/-- Cycles that turn the phase in the direction `d` complete, and, accepted, count four each in that direction. -/
theorem execAll_cycles (hne : c₂ ≠ c₁) {d : Int} (hd : d ≠ 0)
    (hturn : TurnsPhase d 0 (cycles.flatMap (cycleEdges c₁ c₂ n₁ n₃)) 0) {s : State} (h : s.Awaits)
    (hphase : loadPhase s = 0) (hrange : wrapCount s.params s.q.count 0 = s.q.count) :
    ∃ t outs, execAll (cycles.flatMap fun c => (cycleEdges c₁ c₂ n₁ n₃ c).map ReadEdge.record) s = .next t ∧
      t.out = s.out ++ outs ∧
      (.outcome .debounced ∉ outs → t.q.count = wrapCount s.params s.q.count (d * (4 * cycles.length)) ∧
        t.q.illegal = s.q.illegal ∧ loadPhase t = 0) ∧
      (spaced s.q.debounceUs (stampOf c₁ s) (oddTimes s.params cycles) →
        spaced s.q.debounceUs (stampOf c₂ s) (evenTimes s.params cycles) → .outcome .debounced ∉ outs) := by
  obtain ⟨t, outs, hexec, hout, hcounts, haccepted⟩ :=
    execAll_records (cycles.flatMap (cycleEdges c₁ c₂ n₁ n₃)) h
  rw [List.map_flatMap] at hexec
  refine ⟨t, outs, hexec, hout, fun hnone => ?_, fun hodd heven => haccepted fun ch => ?_⟩
  · obtain ⟨hcount, hillegal, hnew⟩ := hcounts hnone hrange d 0 hd (by rwa [hphase])
    rw [cycles_length] at hcount
    exact ⟨by exact_mod_cast hcount, hillegal, hnew⟩
  · obtain rfl | rfl := eq_or_eq_of_channels_ne hne ch
    · rwa [timesOf_cycles_odd cycles hne]
    · rwa [timesOf_cycles_even cycles hne]

end

/-- Settles O32: the forward cycles turn the phase in the direction `+1`, the reverse ones in the direction `-1`. -/
theorem cleanCyclesCountFourEach : Obligations.CleanCyclesCountFourEach := by
  intro cycles s hlife hrun hc hphase hadmitted hcounters
  obtain ⟨hwidth, -⟩ := hadmitted
  have hrange := wrapCount_zero_of_inRange (by omega) hcounters
  refine ⟨?_, ?_⟩
  · have hcycles := execAll_cycles (c₁ := .B) (c₂ := .A) (n₁ := 1) (n₃ := 2) (d := 1) cycles nofun one_ne_zero
      (cycles_turn cycles rfl rfl rfl rfl) ⟨hlife, hrun, hc⟩ hphase hrange
    simp only [← forwardCycle_eq, one_mul] at hcycles
    exact hcycles
  · have hcycles := execAll_cycles (c₁ := .A) (c₂ := .B) (n₁ := 2) (n₃ := 1) (d := -1) cycles nofun (by decide)
      (cycles_turn cycles rfl rfl rfl rfl) ⟨hlife, hrun, hc⟩ hphase hrange
    simp only [← backwardCycle_eq, neg_one_mul] at hcycles
    exact hcycles

end Sys2Proof.Machine
end

section
/-! PROOFS. The family 41_pid.md: `sat` (R124), the setters and `PRESET` (R130 to R135, R140). -/

namespace Sys2Proof.Machine

/-! ### Saturation -/

theorem sat_numSys (k : Nat) (v lo hi : Num64) :
    sat (numSys k) v lo hi =
      if Num64.toInt v < Num64.toInt lo then lo else if Num64.toInt hi < Num64.toInt v then hi else v := by
  simp only [sat, numSys_lt, decide_eq_true_eq]

/-- A value within the bounds is not clamped. -/
theorem sat_eq_self {k : Nat} {v lo hi : Num64} (hlo : Num64.toInt lo ≤ Num64.toInt v)
    (hhi : Num64.toInt v ≤ Num64.toInt hi) : sat (numSys k) v lo hi = v := by
  rw [sat_numSys, if_neg (not_lt.mpr hlo), if_neg (not_lt.mpr hhi)]

/-- Settles O37: one case of `sat` per position of the value, and `sat_in_bounds`. -/
theorem saturationStaysInBounds : Obligations.SaturationStaysInBounds := by
  refine fun k v lo hi hord => ⟨fun hlow => ?_, fun hhigh => ?_, sat_eq_self, sat_in_bounds k hord v⟩
  · rw [sat_numSys, if_pos hlow]
  · have hnot : ¬ Num64.toInt v < Num64.toInt lo := by omega
    rw [sat_numSys, if_neg hnot, if_pos hhigh]

/-! ### The setters and `PRESET` -/

theorem exec_psetAwGain {s : State} {v : Slot} {x : Num64} (hobs : observable s = true) (hv : numOfSlot v = some x) :
    exec (.psetAwGain v) s = .next (respondOk (.int 0) (setUnitP { s.p with kaw := x } s)) := by
  rw [exec, execPsetAwGain, psetAwGainOver, admitted_of_observable hobs, withNum_some hv, finishP]

/-- Settles O45: each setter's equation. -/
theorem gainSettersWriteTheirElement : Obligations.GainSettersWriteTheirElement :=
  fun _ _ _ hobs hv => ⟨exec_psetKp hobs hv, exec_psetKi hobs hv, exec_psetKd hobs hv, exec_psetAwGain hobs hv⟩

theorem setOutLimits_numSys (k : Nat) (x y : Num64) (p : UnitP Num64) :
    setOutLimits (numSys k) x y p = { p with
      outMin := if Num64.toInt y < Num64.toInt x then y else x
      outMax := if Num64.toInt y < Num64.toInt x then x else y } := by
  simp only [setOutLimits, numSys_lt, decide_eq_true_eq]
  split_ifs <;> rfl

theorem setIntLimits_numSys (k : Nat) (x y : Num64) (p : UnitP Num64) :
    setIntLimits (numSys k) x y p = { p with
      intMin := if Num64.toInt y < Num64.toInt x then y else x
      intMax := if Num64.toInt y < Num64.toInt x then x else y } := by
  simp only [setIntLimits, numSys_lt, decide_eq_true_eq]
  split_ifs <;> rfl

/-- Settles O46: each of the two setters completes with the pair that its swap leaves. -/
theorem boundSettersSwapTheirPair : Obligations.BoundSettersSwapTheirPair := by
  intro s a b x y hobs hx hy
  constructor
  · rw [exec, execPsetOutLimits, psetOutLimitsOver, admitted_of_observable hobs, withNum_some hx, withNum_some hy,
      setOutLimits_numSys]
    rfl
  · rw [exec, execPsetIntLimits, psetIntLimitsOver, admitted_of_observable hobs, withNum_some hx, withNum_some hy,
      setIntLimits_numSys]
    rfl

/-- Settles O44: the command completes with `pidPreset`, whose clamp is `sat_numSys`. -/
theorem presetSeedsUnitP : Obligations.PresetSeedsUnitP := by
  intro s iseed eseed i e hobs hi he
  refine ⟨Config.freeZeroSign (s.fresh + 0), Config.freeZeroSign (s.fresh + 1), ?_⟩
  rw [exec, execPreset, presetOver, admitted_of_observable hobs, withNum_some hi, withNum_some he, pidPreset,
    sat_numSys]
  rfl

end Sys2Proof.Machine
end

section
/-! PROOFS. The family 41_pid.md: which operations are refused, and when (R122). -/

namespace Sys2Proof.Machine

variable {α : Type}

/-! ### Refusals of the shared operations -/

theorem admitted_refused_iff {s : State α} {k : State α → Host.Outcome (State α) Fault Refusal} {r : Refusal} :
    admitted s k = .refused r ↔ observable s = true ∧ k s = .refused r := by
  cases ho : observable s with
  | true => simp [admitted_of_observable ho]
  | false => simp [admitted_of_not_observable ho]

theorem admitted_ne_refused {s : State α} {k : State α → Host.Outcome (State α) Fault Refusal} {r : Refusal}
    (h : k s ≠ .refused r) : admitted s k ≠ .refused r :=
  fun hadm => h (admitted_refused_iff.mp hadm).2

theorem withNum_refused_iff {N : NumSys α} {v : Slot} {k : α → Host.Outcome (State α) Fault Refusal} {r : Refusal} :
    withNum N v k = .refused r ↔
      (N.ofSlot v = none ∧ r = .unorderedNum) ∨ ∃ x, N.ofSlot v = some x ∧ k x = .refused r := by
  cases hv : N.ofSlot v with
  | none => simp [withNum_none hv, eq_comm]
  | some x => simp [withNum_some hv]

theorem finishP_ne_refused {p : UnitP α} {s : State α} {r : Refusal} : finishP p s ≠ .refused r := nofun

/-- A command whose only refusals are those of its `NUM` operands is refused iff one of them is outside the order. -/
theorem withNum_finishP_refused_iff {N : NumSys α} {v : Slot} {f : α → UnitP α} {s : State α} {r : Refusal} :
    withNum N v (fun x => finishP (f x) s) = .refused r ↔ r = .unorderedNum ∧ N.ofSlot v = none := by
  simp [withNum_refused_iff, finishP_ne_refused, and_comm]

theorem withNum_withNum_finishP_refused_iff {N : NumSys α} {v w : Slot} {f : α → α → UnitP α} {s : State α}
    {r : Refusal} :
    withNum N v (fun x => withNum N w fun y => finishP (f x y) s) = .refused r ↔
      r = .unorderedNum ∧ (N.ofSlot v = none ∨ N.ofSlot w = none) := by
  simp only [withNum_refused_iff, finishP_ne_refused, and_false, exists_false, or_false]
  cases N.ofSlot v <;> simp [and_comm]

/-! ### Refusals of the operations -/

/-- An operation meets a value outside the order (41_pid.md R122): an operand, or a value that the control law computes
from ordered operands. -/
def MeetsUnordered (N : NumSys α) (s : State α) (i : Instr) : Prop :=
  (∃ v ∈ numOperands i, N.ofSlot v = none) ∨
  ∃ ref meas dt r m d, i = .pstep ref meas dt ∧ N.ofSlot ref = some r ∧ N.ofSlot meas = some m ∧
    N.ofSlot dt = some d ∧ pidStep N s.params.epsDt s.p r m d = none

theorem meetsUnordered_iff_of_ne_pstep {N : NumSys α} {s : State α} {i : Instr} (hi : ∀ a b c, i ≠ .pstep a b c) :
    MeetsUnordered N s i ↔ ∃ v ∈ numOperands i, N.ofSlot v = none :=
  or_iff_left fun ⟨ref, meas, dt, _, _, _, heq, _⟩ => hi ref meas dt heq

theorem pstepOver_refused_iff {N : Nat → NumSys α} {ref meas dt : Slot} {s : State α} {r : Refusal} :
    pstepOver N ref meas dt s = .refused r ↔
      observable s = true ∧ r = .unorderedNum ∧ MeetsUnordered (N s.fresh) s (.pstep ref meas dt) := by
  rw [pstepOver, admitted_refused_iff]
  refine and_congr_right fun _ => ?_
  cases href : (N s.fresh).ofSlot ref with
  | none => simp [withNum_none href, MeetsUnordered, numOperands, href, eq_comm]
  | some x =>
    cases hmeas : (N s.fresh).ofSlot meas with
    | none => simp [withNum_some href, withNum_none hmeas, MeetsUnordered, numOperands, hmeas, eq_comm]
    | some y =>
      cases hdt : (N s.fresh).ofSlot dt with
      | none =>
        simp [withNum_some href, withNum_some hmeas, withNum_none hdt, MeetsUnordered, numOperands, hdt, eq_comm]
      | some z =>
        cases hstep : pidStep (N s.fresh) s.params.epsDt s.p x y z <;>
          simp [withNum_some href, withNum_some hmeas, withNum_some hdt, MeetsUnordered, numOperands, href, hmeas,
            hdt, hstep, eq_comm]

/-- An operation without `NUM` operands is not refused. -/
theorem execOver_ne_refused {N : Nat → NumSys α} {i : Instr} (hi : numOperands i = []) (s : State α) (r : Refusal) :
    execOver N i s ≠ .refused r := by
  cases i with
  | qrdCount | qrdIllegal | qreset | prdInteg | prdLastU | prdLastY =>
    apply admitted_ne_refused
    nofun
  | qsetDebounce us =>
    apply admitted_ne_refused
    cases u1OfSlot s.params us <;> nofun
  | qedge =>
    simp only [execOver, qedgeOver]
    split_ifs <;> nofun
  | bconstruct acquireFails lvA lvB =>
    simp only [execOver, bconstructOver]
    cases phaseOf lvA lvB <;> split_ifs <;> nofun
  | bstop =>
    simp only [execOver, bstopOver]
    split_ifs <;> nofun
  | brelease =>
    simp only [execOver, breleaseOver]
    cases s.b.life <;> nofun
  | pstep | preset | psetKp | psetKi | psetKd | psetAwGain | psetOutLimits | psetIntLimits => cases hi

/-- An operation is refused iff the block is observable and the operation meets a value outside the order, which is
also the reason it gives; over any number system. -/
theorem execOver_refused_iff (N : Nat → NumSys α) (i : Instr) (s : State α) (r : Refusal) :
    execOver N i s = .refused r ↔
      observable s = true ∧ r = .unorderedNum ∧ MeetsUnordered (N s.fresh) s i := by
  cases i with
  | pstep => exact pstepOver_refused_iff
  | psetKp | psetKi | psetKd | psetAwGain =>
    rw [meetsUnordered_iff_of_ne_pstep (by simp)]
    simp only [execOver, psetKpOver, psetKiOver, psetKdOver, psetAwGainOver, admitted_refused_iff]
    simp [numOperands, withNum_finishP_refused_iff]
  | preset | psetOutLimits | psetIntLimits =>
    rw [meetsUnordered_iff_of_ne_pstep (by simp)]
    simp only [execOver, presetOver, psetOutLimitsOver, psetIntLimitsOver, admitted_refused_iff]
    simp [numOperands, withNum_withNum_finishP_refused_iff]
  | qrdCount | qrdIllegal | qreset | qsetDebounce | qedge | prdInteg | prdLastU | prdLastY | bconstruct | bstop |
      brelease =>
    rw [meetsUnordered_iff_of_ne_pstep (by simp)]
    exact iff_of_false (execOver_ne_refused (by rfl) s r) (by simp [numOperands])

theorem exec_refused_iff (i : Instr) (s : State) (r : Refusal) :
    exec i s = .refused r ↔ observable s = true ∧ r = .unorderedNum ∧ MeetsUnordered (numSys s.fresh) s i := by
  rw [exec_eq_execOver, execOver_refused_iff]

theorem MeetsUnordered.numOperands_ne_nil {N : NumSys α} {s : State α} {i : Instr} (h : MeetsUnordered N s i) :
    numOperands i ≠ [] := by
  obtain ⟨v, hv, -⟩ | ⟨ref, meas, dt, -, -, -, rfl, -⟩ := h
  · exact List.ne_nil_of_mem hv
  · exact List.cons_ne_nil _ _

/-- Settles O15: no operation faults, and `exec_refused_iff` says where one is refused. -/
theorem onlyUnorderedValuesAreRefused : Obligations.OnlyUnorderedValuesAreRefused := by
  refine ⟨noFault_exec, fun i s r h => ?_⟩
  obtain ⟨hobs, hr, hmeets⟩ := (exec_refused_iff i s r).mp h
  exact ⟨hr, hmeets.numOperands_ne_nil, hobs⟩

end Sys2Proof.Machine
end

section
/-! PROOFS. The family 41_pid.md: the control law over binary64, line by line (R121 to R129), and the operands that it
treats alike (R123, R127). -/

namespace Sys2Proof.Machine

variable {α : Type}

/-! ### `PSTEP` runs the control law -/

theorem pstepOver_of_ordered {N : Nat → NumSys α} {s : State α} {ref meas dt : Slot} {r m d : α}
    (hobs : observable s = true) (href : (N s.fresh).ofSlot ref = some r) (hmeas : (N s.fresh).ofSlot meas = some m)
    (hdt : (N s.fresh).ofSlot dt = some d) {p : UnitP α} (hstep : pidStep (N s.fresh) s.params.epsDt s.p r m d = some p) :
    pstepOver N ref meas dt s = .next (respondOk (.num p.lastY) (useFree pidStepPlaces (setUnitP p s))) := by
  rw [pstepOver, admitted_of_observable hobs, withNum_some href, withNum_some hmeas, withNum_some hdt, hstep]

/-- A `PSTEP` that is served and completes has run the control law on ordered operands. -/
theorem Leaves.pstep_inv {N : Nat → NumSys α} {s t : State α} {ref meas dt : Slot}
    (h : Leaves N s (.pstep ref meas dt) t) (hobs : observable s = true) :
    ∃ r m d p, (N s.fresh).ofSlot ref = some r ∧ (N s.fresh).ofSlot meas = some m ∧ (N s.fresh).ofSlot dt = some d ∧
      pidStep (N s.fresh) s.params.epsDt s.p r m d = some p ∧
      t = respondOk (.num p.lastY) (useFree pidStepPlaces (setUnitP p s)) := by
  cases h with
  | pstep _ href hmeas hdt hstep => exact ⟨_, _, _, _, href, hmeas, hdt, hstep, rfl⟩
  | notReady _ hnot => simp [hobs] at hnot
  | read _ _ hread => cases hread
  | noEffect hkind => exact absurd rfl hkind

/-! ### The terms of the control law -/

theorem stepSize_numSys (k : Nat) (eps dt : Num64) :
    stepSize (numSys k) eps dt = if Num64.toInt dt ≤ 0 then eps else dt := by
  simp only [stepSize, numSys_le, numSys_zero_toInt, decide_eq_true_eq]

/-- Conditional integration skips: the command is at or beyond a bound and the error pushes further into it
(41_pid.md R129). -/
def PushesIntoBound (p : UnitP Num64) (e u : Num64) : Prop :=
  (Num64.toInt p.outMax ≤ Num64.toInt u ∧ 0 < Num64.toInt e) ∨
    (Num64.toInt u ≤ Num64.toInt p.outMin ∧ Num64.toInt e < 0)

theorem skipsIntegration_iff (k : Nat) (p : UnitP Num64) (e u : Num64) :
    skipsIntegration (numSys k) p e u = true ↔ PushesIntoBound p e u := by
  simp only [skipsIntegration, PushesIntoBound, numSys_le, numSys_lt, numSys_zero_toInt, Bool.or_eq_true,
    Bool.and_eq_true, decide_eq_true_eq]

section
variable {N : NumSys α} {p : UnitP α}

theorem unclamped_eq_some_iff {e h u : α} :
    unclamped N p e h = some u ↔ ∃ prop diff scaled deriv sum,
      N.mul 1 p.kp e = some prop ∧ N.sub 2 e p.prevErr = some diff ∧ N.mul 3 p.kd diff = some scaled ∧
      N.div 4 scaled h = some deriv ∧ N.add 5 prop p.integ = some sum ∧ N.add 6 sum deriv = some u := by
  simp only [unclamped, Option.bind_eq_bind, Option.bind_eq_some_iff, exists_and_left]

theorem backCalculate_eq_some_iff {e u y h i1 : α} :
    backCalculate N p e u y h = some i1 ↔ ∃ kie excess corr rate inc,
      N.mul 7 p.ki e = some kie ∧ N.sub 8 y u = some excess ∧ N.mul 9 p.kaw excess = some corr ∧
      N.add 10 kie corr = some rate ∧ N.mul 11 rate h = some inc ∧ N.add 12 p.integ inc = some i1 := by
  simp only [backCalculate, Option.bind_eq_bind, Option.bind_eq_some_iff, exists_and_left]

theorem pidStep_eq_some_iff {eps r m d : α} {p' : UnitP α} :
    pidStep N eps p r m d = some p' ↔ ∃ e u i1, N.sub 0 r m = some e ∧ unclamped N p e (stepSize N eps d) = some u ∧
      nextIntegrator N p e u (sat N u p.outMin p.outMax) (stepSize N eps d) = some i1 ∧
      p' = { p with
        integ := sat N i1 p.intMin p.intMax
        prevErr := e
        lastU := u
        lastY := sat N u p.outMin p.outMax } := by
  simp only [pidStep, Option.bind_eq_bind, Option.bind_eq_some_iff, exists_and_left,
    Option.some.injEq, eq_comm (a := p')]

end

theorem integrateConditionally_eq_some_iff {k : Nat} {p : UnitP Num64} {e u h i1 : Num64} :
    integrateConditionally (numSys k) p e u h = some i1 ↔
      (PushesIntoBound p e u ∧ i1 = p.integ) ∨
      (¬ PushesIntoBound p e u ∧ ∃ kie inc, (numSys k).mul 7 p.ki e = some kie ∧
        (numSys k).mul 11 kie h = some inc ∧ (numSys k).add 12 p.integ inc = some i1) := by
  unfold integrateConditionally
  split_ifs with hskip <;> rw [skipsIntegration_iff] at hskip
  · simp [hskip, eq_comm]
  · simp [hskip, Option.bind_eq_some_iff]

/-- The model's choice of strategy is that of `integratorUpdate` (41_pid.md R127). -/
theorem nextIntegrator_eq_some_iff {k : Nat} {p : UnitP Num64} {e u y h i1 : Num64} :
    nextIntegrator (numSys k) p e u y h = some i1 ↔ integratorUpdate (numSys k) p e u y h i1 := by
  simp only [nextIntegrator, numSys_lt, numSys_zero_toInt, decide_eq_true_eq]
  split_ifs with hkaw
  · have hnot : ¬ Num64.toInt p.kaw ≤ 0 := not_le.mpr hkaw
    simp only [integratorUpdate, hkaw, hnot, true_and, false_and, or_false]
    exact backCalculate_eq_some_iff
  · have hle : Num64.toInt p.kaw ≤ 0 := not_lt.mp hkaw
    simp only [integratorUpdate, hkaw, hle, true_and, false_and, false_or]
    exact integrateConditionally_eq_some_iff

theorem commandTerms_iff {k : Nat} {eps : Num64} {p : UnitP Num64} {r m dt h e u : Num64} :
    commandTerms (numSys k) eps p r m dt h e u ↔
      h = stepSize (numSys k) eps dt ∧ (numSys k).sub 0 r m = some e ∧ unclamped (numSys k) p e h = some u := by
  rw [commandTerms, stepSize_numSys, unclamped_eq_some_iff]

/-- The binary64 step completes iff each of its lines has an ordered value, and it leaves these (41_pid.md R121). -/
theorem pidStep_numSys_eq_some_iff {k : Nat} {eps r m d : Num64} {p p' : UnitP Num64} :
    pidStep (numSys k) eps p r m d = some p' ↔ ∃ h e u i1, commandTerms (numSys k) eps p r m d h e u ∧
      integratorUpdate (numSys k) p e u (sat (numSys k) u p.outMin p.outMax) h i1 ∧
      p' = { p with
        integ := sat (numSys k) i1 p.intMin p.intMax
        prevErr := e
        lastU := u
        lastY := sat (numSys k) u p.outMin p.outMax } := by
  rw [pidStep_eq_some_iff]
  simp only [commandTerms_iff, ← nextIntegrator_eq_some_iff]
  constructor
  · rintro ⟨e, u, i1, he, hu, hi, rfl⟩
    exact ⟨_, e, u, i1, ⟨rfl, he, hu⟩, hi, rfl⟩
  · rintro ⟨h, e, u, i1, ⟨rfl, he, hu⟩, hi, rfl⟩
    exact ⟨e, u, i1, he, hu, hi, rfl⟩

/-- Settles O38: the given terms are those of `pidStep_numSys_eq_some_iff`. -/
theorem pstepComputesTheControlLaw : Obligations.PstepComputesTheControlLaw := by
  intro s ref meas dt r m t h e u i1 hobs href hmeas hdt hterms hinteg
  have hstep := pidStep_numSys_eq_some_iff.mpr ⟨h, e, u, i1, hterms, hinteg, rfl⟩
  exact pstepOver_of_ordered (N := numSys) hobs href hmeas hdt hstep

/-- Settles O39: `exec_refused_iff` for the operands and for the commands other than `PSTEP`; a `PSTEP` on ordered
operands meets a value outside the order iff the control law has none. -/
theorem unorderedValuesAreRefused : Obligations.UnorderedValuesAreRefused := by
  refine ⟨fun i s hobs hv => ?_, fun s ref meas dt r m t hobs href hmeas hdt hnone => ?_, fun i s hobs hi hv h => ?_⟩
  · exact (exec_refused_iff i s _).mpr ⟨hobs, rfl, .inl hv⟩
  · have hstep : pidStep (numSys s.fresh) s.params.epsDt s.p r m t = none := by
      refine Option.eq_none_iff_forall_ne_some.mpr fun p' hp' => hnone ?_
      obtain ⟨h, e, u, i1, hterms, hinteg, -⟩ := pidStep_numSys_eq_some_iff.mp hp'
      exact ⟨h, e, u, i1, hterms, hinteg⟩
    exact (exec_refused_iff _ s _).mpr ⟨hobs, rfl, .inr ⟨ref, meas, dt, r, m, t, rfl, href, hmeas, hdt, hstep⟩⟩
  · obtain ⟨-, -, hmeets⟩ := (exec_refused_iff i s _).mp h
    obtain ⟨v, hmem, hnone⟩ := (meetsUnordered_iff_of_ne_pstep hi).mp hmeets
    exact hv v hmem hnone

/-! ### Saturation, step size and anti-windup gain -/

/-- With no anti-windup gain an integrator whose update skips is the one before. -/
theorem integratorUpdate_of_pushes {k : Nat} {p : UnitP Num64} {e u y h i1 : Num64}
    (hinteg : integratorUpdate (numSys k) p e u y h i1) (hkaw : Num64.toInt p.kaw ≤ 0) (hpush : PushesIntoBound p e u) :
    i1 = p.integ := by
  obtain ⟨hpos, -⟩ | ⟨-, -, heq⟩ | ⟨-, hnot, -⟩ := hinteg
  · omega
  · exact heq
  · exact absurd hpush hnot

/-- Settles O41: the update skips, and the final clamp leaves an integrator within its bounds alone. -/
theorem saturatedStepSkipsIntegration : Obligations.SaturatedStepSkipsIntegration := by
  intro s t ref meas dt hobs hexec hkaw hpush hlo hhi
  obtain ⟨r, m, d, p, -, -, -, hstep, rfl⟩ := (leaves_of_exec hexec).pstep_inv hobs
  obtain ⟨h, e, u, i1, -, hinteg, rfl⟩ := pidStep_numSys_eq_some_iff.mp hstep
  obtain rfl := integratorUpdate_of_pushes hinteg hkaw hpush
  exact sat_eq_self hlo hhi

theorem pidStep_stepSize (N : NumSys α) {eps d d' : α} (h : stepSize N eps d = stepSize N eps d') (p : UnitP α)
    (r m : α) : pidStep N eps p r m d = pidStep N eps p r m d' := by
  simp only [pidStep, h]

/-- Settles O42: both operands give the step size `EPS_DT`, and the step reads its operand `dt` there only. -/
theorem nonPositiveDtIsReplaced : Obligations.NonPositiveDtIsReplaced := by
  intro s ref meas dt t heps hdt ht
  have hsize : stepSize (numSys s.fresh) s.params.epsDt t =
      stepSize (numSys s.fresh) s.params.epsDt s.params.epsDt := by
    rw [stepSize_numSys, if_pos ht, stepSize_numSys, ite_self]
  have hslot : numOfSlot (slotOfNum s.params.epsDt) = some s.params.epsDt := (numOfSlot_eq_some_iff _ _).mpr rfl
  simp only [exec, execPstep, pstepOver, withNum_some (N := numSys s.fresh) hdt,
    withNum_some (N := numSys s.fresh) hslot]
  cases hobs : observable s with
  | true => simp only [admitted_of_observable hobs, pidStep_stepSize _ hsize]
  | false => simp only [admitted_of_not_observable hobs]

theorem nextIntegrator_of_kaw_nonpos {k : Nat} {p : UnitP Num64} (hkaw : Num64.toInt p.kaw ≤ 0) (e u y h : Num64) :
    nextIntegrator (numSys k) p e u y h = integrateConditionally (numSys k) p e u h := by
  rw [nextIntegrator, numSys_lt, numSys_zero_toInt, if_neg (by simpa using hkaw)]

/-- The gain reaches the control law through the test of its sign and through back-calculation only. -/
theorem pidStep_of_kaw_nonpos {k : Nat} {p p' : UnitP Num64} {z eps r m d : Num64} (hkaw : Num64.toInt p.kaw ≤ 0)
    (hz : Num64.toInt z ≤ 0) (h : pidStep (numSys k) eps p r m d = some p') :
    pidStep (numSys k) eps { p with kaw := z } r m d = some { p' with kaw := z } := by
  obtain ⟨e, u, i1, he, hu, hinteg, rfl⟩ := pidStep_eq_some_iff.mp h
  rw [nextIntegrator_of_kaw_nonpos hkaw] at hinteg
  exact pidStep_eq_some_iff.mpr
    ⟨e, u, i1, he, hu, (nextIntegrator_of_kaw_nonpos (p := { p with kaw := z }) hz _ _ _ _).trans hinteg, rfl⟩

/-- Settles O43: the step with the other gain is the same step but for the gain it stores. -/
theorem negativeGainActsAsZero : Obligations.NegativeGainActsAsZero := by
  intro s t ref meas dt z hobs hkaw hz hexec
  obtain ⟨r, m, d, p, href, hmeas, hdt, hstep, rfl⟩ := (leaves_of_exec hexec).pstep_inv hobs
  exact pstepOver_of_ordered (N := numSys) (s := setUnitP { s.p with kaw := z } s) hobs href hmeas hdt
    (pidStep_of_kaw_nonpos hkaw hz.le hstep)

end Sys2Proof.Machine
end

section
/-! PROOFS. The family 41_pid.md: the control law over the rationals (R120, R121), and back-calculation as a contraction
(R128). -/

namespace Sys2Proof.Machine

/-! ### The terms of the exact step -/

theorem exact_add (k : Nat) (x y : Rat) : exact.add k x y = some (x + y) := rfl
theorem exact_sub (k : Nat) (x y : Rat) : exact.sub k x y = some (x - y) := rfl
theorem exact_mul (k : Nat) (x y : Rat) : exact.mul k x y = some (x * y) := rfl
theorem exact_div (k : Nat) {x y : Rat} (hy : y ≠ 0) : exact.div k x y = some (x / y) := if_neg hy

theorem stepSize_exact (eps dt : Rat) : stepSize exact eps dt = if dt ≤ 0 then eps else dt := by
  simp only [stepSize, exact_le, exact_zero, decide_eq_true_eq]

/-- The step size is positive, so no step divides by zero (41_pid.md R120, R123). -/
theorem stepSize_exact_pos {eps : Rat} (heps : 0 < eps) (dt : Rat) : 0 < stepSize exact eps dt := by
  rw [stepSize_exact]
  split_ifs with hdt
  · exact heps
  · exact not_le.mp hdt

section
variable (p : UnitP Rat) (e u y h : Rat)

theorem unclamped_exact (hh : h ≠ 0) :
    unclamped exact p e h = some (p.kp * e + p.integ + p.kd * (e - p.prevErr) / h) := by
  simp only [unclamped, exact_mul, exact_sub, exact_add, exact_div _ hh, Option.bind_eq_bind, Option.bind_some]

/-- The integrator before its final clamp, by the formulas of 41_pid.md R127 to R129. -/
def exactIntegrator : Rat :=
  if 0 < p.kaw then p.integ + (p.ki * e + p.kaw * (y - u)) * h
  else if (p.outMax ≤ u ∧ 0 < e) ∨ (u ≤ p.outMin ∧ e < 0) then p.integ
  else p.integ + p.ki * e * h

theorem nextIntegrator_exact : nextIntegrator exact p e u y h = some (exactIntegrator p e u y h) := by
  simp only [nextIntegrator, backCalculate, integrateConditionally, skipsIntegration, exactIntegrator, exact_lt, exact_le,
    exact_zero, exact_mul, exact_sub, exact_add, Option.bind_eq_bind, Option.bind_some, Bool.or_eq_true,
    Bool.and_eq_true, decide_eq_true_eq]
  split_ifs <;> rfl

end

/-- Unit P after a step with the error `e` and the step size `h`, by the formulas of 41_pid.md R121. -/
def exactAfterStep (p : UnitP Rat) (e h : Rat) : UnitP Rat :=
  let u := p.kp * e + p.integ + p.kd * (e - p.prevErr) / h
  let y := sat exact u p.outMin p.outMax
  { p with prevErr := e, lastU := u, lastY := y, integ := sat exact (exactIntegrator p e u y h) p.intMin p.intMax }

/-- Over the rationals no line of the control law fails. -/
theorem pidStep_exact {eps : Rat} (heps : 0 < eps) (p : UnitP Rat) (ref meas dt : Rat) :
    pidStep exact eps p ref meas dt = some (exactAfterStep p (ref - meas) (stepSize exact eps dt)) :=
  pidStep_eq_some_iff.mpr ⟨ref - meas, _, _, exact_sub 0 ref meas,
    unclamped_exact p (ref - meas) _ (stepSize_exact_pos heps dt).ne', nextIntegrator_exact _ _ _ _ _, rfl⟩

/-- Settles O51: the step by `pidStep_exact`, the machine's answer by `pstepOver_of_ordered`. -/
theorem exactStepNeverFails : Obligations.ExactStepNeverFails := by
  refine ⟨fun eps p ref meas dt heps => ?_, fun s ref meas dt r m t hobs heps href hmeas hdt => ?_⟩
  · rw [pidStep_exact heps, stepSize_exact]
    rfl
  · have hstep := pidStep_exact heps s.p r m t
    exact ⟨_, hstep, pstepOver_of_ordered (N := fun _ => exact) hobs href hmeas hdt hstep⟩

/-! ### Back-calculation -/

/-- Back-calculation moves the integrator towards the value at which `u = y + ki*e/kaw` (41_pid.md R128): `c` is what
`prop` and `deriv` add up to, `x` is `ki*e`. -/
theorem backCalculation_sub_goal {kaw : Rat} (hkaw : kaw ≠ 0) (integ x y c h : Rat) :
    integ * (1 - kaw * h) + (x + kaw * (y - c)) * h - (y + x / kaw - c) =
      (1 - kaw * h) * (integ - (y + x / kaw - c)) := by
  field_simp
  ring

/-- Settles O52: `exactIntegrator` rearranged, then `backCalculation_sub_goal`, whose factor lies between -1 and 1. -/
theorem exactBackCalculationContracts : Obligations.ExactBackCalculationContracts := by
  intro eps p p' ref meas dt heps hkaw hstep h e prop deriv i1 goal
  have hh : stepSize exact eps dt = h := stepSize_exact eps dt
  have hpos : 0 < h := hh ▸ stepSize_exact_pos heps dt
  rw [pidStep_exact heps, hh, Option.some.injEq] at hstep
  have hgoal : i1 - goal = (1 - p.kaw * h) * (p.integ - goal) := by
    have := backCalculation_sub_goal hkaw.ne' p.integ (p.ki * e) p'.lastY (prop + deriv) h
    simp only [← sub_sub] at this
    exact this
  refine ⟨?_, hgoal, fun hsmall hne => ?_⟩
  · have hi1 : exactIntegrator p e p'.lastU p'.lastY h = i1 := by
      have hu : p'.lastU = prop + p.integ + deriv := by rw [← hstep]; rfl
      rw [exactIntegrator, if_pos hkaw, hu]
      simp only [i1]
      ring
    rw [← hi1, ← hstep]
    rfl
  · have hprod : 0 < p.kaw * h := mul_pos hkaw hpos
    have hfactor : |1 - p.kaw * h| < 1 := abs_lt.mpr ⟨by linarith, by linarith⟩
    rw [hgoal, abs_mul]
    exact mul_lt_of_lt_one_left (abs_pos.mpr (sub_ne_zero.mpr hne)) hfactor

end Sys2Proof.Machine
end

section
/-! PROOFS. The family 41_pid.md: the sign of a zero reaches no value (R122). -/

namespace Sys2Proof.Machine

/-! ### Values and results that may be absent -/

/-- The same value; the signs of zeros may differ. -/
def SameValue (x y : Num64) : Prop := Num64.toInt x = Num64.toInt y

theorem rel_some_left {α β : Type} {R : α → β → Prop} {x : α} {b : Option β} (h : Option.Rel R (some x) b) :
    ∃ y, b = some y ∧ R x y := by
  cases h with
  | some hxy => exact ⟨_, rfl, hxy⟩

theorem rel_none_left {α β : Type} {R : α → β → Prop} {b : Option β} (h : Option.Rel R none b) : b = none := by
  cases h
  rfl

theorem rel_bind {α β α' β' : Type} {R : α → α' → Prop} {S : β → β' → Prop} {a : Option α} {a' : Option α'}
    {f : α → Option β} {f' : α' → Option β'} (ha : Option.Rel R a a') (hf : ∀ x y, R x y → Option.Rel S (f x) (f' y)) :
    Option.Rel S (a.bind f) (a'.bind f') := by
  cases ha with
  | some h => exact hf _ _ h
  | none => exact .none

/-- Two rounded results are equal but for the sign of a zero. -/
theorem rel_ofRatio (zs zs' neg : Bool) (n d : Nat) :
    Option.Rel SameValue (Num64.ofRatio zs neg n d) (Num64.ofRatio zs' neg n d) := by
  unfold Num64.ofRatio
  cases roundMagnitude n d with
  | none => exact .none
  | some m =>
    refine .some ?_
    by_cases hm : m.val = 0 <;> simp [SameValue, Num64.toInt, hm]

/-! ### The operations of binary64 -/

section
variable (z z' : Nat → Bool) (k : Nat) {x x' y y' : Num64} (hx : Num64.toInt x = Num64.toInt x')
  (hy : Num64.toInt y = Num64.toInt y')
include hx hy

theorem rel_add : Option.Rel SameValue ((binary64 z).add k x y) ((binary64 z').add k x' y') := by
  simp only [binary64, Num64.add, hx, hy]
  exact rel_ofRatio _ _ _ _ _

theorem rel_sub : Option.Rel SameValue ((binary64 z).sub k x y) ((binary64 z').sub k x' y') := by
  simp only [binary64, Num64.sub, hx, hy]
  exact rel_ofRatio _ _ _ _ _

theorem rel_mul : Option.Rel SameValue ((binary64 z).mul k x y) ((binary64 z').mul k x' y') := by
  simp only [binary64, Num64.mul, hx, hy]
  exact rel_ofRatio _ _ _ _ _

theorem rel_div : Option.Rel SameValue ((binary64 z).div k x y) ((binary64 z').div k x' y') := by
  simp only [binary64, Num64.div, hx, hy]
  split_ifs
  · exact .none
  · exact rel_ofRatio _ _ _ _ _

theorem binary64_lt_congr : (binary64 z).lt x y = (binary64 z').lt x' y' := by
  simp only [binary64, hx, hy]

theorem binary64_le_congr : (binary64 z).le x y = (binary64 z').le x' y' := by
  simp only [binary64, hx, hy]

end

theorem sameValue_zero (z z' : Nat → Bool) (k : Nat) : SameValue ((binary64 z).zero k) ((binary64 z').zero k) := by
  simp only [SameValue, binary64, toInt_zero]

theorem sameValue_sat (z z' : Nat → Bool) {v v' lo lo' hi hi' : Num64} (hv : SameValue v v') (hlo : SameValue lo lo')
    (hhi : SameValue hi hi') : SameValue (sat (binary64 z) v lo hi) (sat (binary64 z') v' lo' hi') := by
  unfold sat
  rw [binary64_lt_congr z z' hv hlo, binary64_lt_congr z z' hhi hv]
  split_ifs
  · exact hlo
  · exact hhi
  · exact hv

/-! ### The control law -/

section
variable (z z' : Nat → Bool) {p p' : UnitP Num64} {e e' u u' y y' h h' : Num64}

theorem sameValue_stepSize (eps : Num64) {d d' : Num64} (hd : SameValue d d') :
    SameValue (stepSize (binary64 z) eps d) (stepSize (binary64 z') eps d') := by
  unfold stepSize
  rw [binary64_le_congr z z' hd (sameValue_zero z z' 13)]
  split_ifs
  · exact rfl
  · exact hd

variable (hp : sameValues p p') (he : SameValue e e') (hh : SameValue h h')
include hp he hh

theorem rel_unclamped : Option.Rel SameValue (unclamped (binary64 z) p e h) (unclamped (binary64 z') p' e' h') := by
  obtain ⟨hkp, -, hkd, -, -, -, -, -, hinteg, hprev, -, -⟩ := hp
  refine rel_bind (rel_mul z z' 1 hkp he) fun prop prop' hprop => ?_
  refine rel_bind (rel_sub z z' 2 he hprev) fun diff diff' hdiff => ?_
  refine rel_bind (rel_mul z z' 3 hkd hdiff) fun scaled scaled' hscaled => ?_
  refine rel_bind (rel_div z z' 4 hscaled hh) fun deriv deriv' hderiv => ?_
  exact rel_bind (rel_add z z' 5 hprop hinteg) fun sum sum' hsum => rel_add z z' 6 hsum hderiv

theorem rel_backCalculate (hu : SameValue u u') (hy : SameValue y y') :
    Option.Rel SameValue (backCalculate (binary64 z) p e u y h) (backCalculate (binary64 z') p' e' u' y' h') := by
  obtain ⟨-, hki, -, -, -, -, -, hkaw, hinteg, -, -, -⟩ := hp
  refine rel_bind (rel_mul z z' 7 hki he) fun kie kie' hkie => ?_
  refine rel_bind (rel_sub z z' 8 hy hu) fun excess excess' hexcess => ?_
  refine rel_bind (rel_mul z z' 9 hkaw hexcess) fun corr corr' hcorr => ?_
  refine rel_bind (rel_add z z' 10 hkie hcorr) fun rate rate' hrate => ?_
  exact rel_bind (rel_mul z z' 11 hrate hh) fun inc inc' hinc => rel_add z z' 12 hinteg hinc

theorem rel_integrateConditionally (hu : SameValue u u') :
    Option.Rel SameValue (integrateConditionally (binary64 z) p e u h)
      (integrateConditionally (binary64 z') p' e' u' h') := by
  obtain ⟨-, hki, -, hlo, hhi, -, -, -, hinteg, -, -, -⟩ := hp
  have hzero := sameValue_zero z z' 13
  have hskip : skipsIntegration (binary64 z) p e u = skipsIntegration (binary64 z') p' e' u' := by
    unfold skipsIntegration
    rw [binary64_le_congr z z' hhi hu, binary64_lt_congr z z' hzero he, binary64_le_congr z z' hu hlo,
      binary64_lt_congr z z' he hzero]
  unfold integrateConditionally
  rw [hskip]
  split_ifs
  · exact .some hinteg
  · refine rel_bind (rel_mul z z' 7 hki he) fun kie kie' hkie => ?_
    exact rel_bind (rel_mul z z' 11 hkie hh) fun inc inc' hinc => rel_add z z' 12 hinteg hinc

theorem rel_nextIntegrator (hu : SameValue u u') (hy : SameValue y y') :
    Option.Rel SameValue (nextIntegrator (binary64 z) p e u y h) (nextIntegrator (binary64 z') p' e' u' y' h') := by
  have hkaw : SameValue p.kaw p'.kaw := by
    obtain ⟨-, -, -, -, -, -, -, hkaw, -⟩ := hp
    exact hkaw
  unfold nextIntegrator
  rw [binary64_lt_congr z z' (sameValue_zero z z' 13) hkaw]
  split_ifs
  · exact rel_backCalculate z z' hp he hh hu hy
  · exact rel_integrateConditionally z z' hp he hh hu

end

theorem rel_pidStep (z z' : Nat → Bool) (eps : Num64) {p p' : UnitP Num64} {r r' m m' d d' : Num64}
    (hp : sameValues p p') (hr : SameValue r r') (hm : SameValue m m') (hd : SameValue d d') :
    Option.Rel sameValues (pidStep (binary64 z) eps p r m d) (pidStep (binary64 z') eps p' r' m' d') := by
  have hh : SameValue (stepSize (binary64 z) eps d) (stepSize (binary64 z') eps d') := sameValue_stepSize z z' eps hd
  have ⟨hkp, hki, hkd, houtMin, houtMax, hintMin, hintMax, hkaw, _⟩ := hp
  refine rel_bind (rel_sub z z' 0 hr hm) fun e e' he => ?_
  refine rel_bind (rel_unclamped z z' hp he hh) fun u u' hu => ?_
  have hy : SameValue (sat (binary64 z) u p.outMin p.outMax) (sat (binary64 z') u' p'.outMin p'.outMax) :=
    sameValue_sat z z' hu houtMin houtMax
  refine rel_bind (rel_nextIntegrator z z' hp he hh hu hy) fun i1 i1' hi1 => ?_
  exact .some ⟨hkp, hki, hkd, houtMin, houtMax, hintMin, hintMax, hkaw, sameValue_sat z z' hi1 hintMin hintMax, he, hu, hy⟩

/-- Settles O50: the two steps are related by `rel_pidStep`. -/
theorem zeroSignsDoNotMatter : Obligations.ZeroSignsDoNotMatter := by
  intro z z' eps p p' r r' m m' t t' hp hr hm ht
  have hrel := rel_pidStep z z' eps hp hr hm ht
  exact ⟨fun n hn => rel_some_left (hn ▸ hrel), fun hnone => rel_none_left (hnone ▸ hrel)⟩

end Sys2Proof.Machine
end

section
/-! PROOFS. The family 41_pid.md: binary64 rounding (R120). A pattern is `s * 2^52 + q` for a significand `q` at the
scale `2^s`; the magnitudes of successive patterns grow; the pattern that `roundMagnitude` gives is the nearest of all,
bounded or not, ties to even. -/

namespace Sys2Proof.Machine

/-! ### Magnitudes of patterns -/

/-- The pattern `m` is the significand `q` at the scale `2^s`: normal, or subnormal at the scale 1. The significand may
be `2^53`, which carries into the exponent field. -/
structure Scaled (m s q : Nat) : Prop where
  pattern : m = s * 2 ^ 52 + q
  normal : s = 0 ∨ 2 ^ 52 ≤ q
  le_carry : q ≤ 2 ^ 53

theorem Scaled.magnitude {m s q : Nat} (h : Scaled m s q) : Num64.magnitude m = q * 2 ^ s := by
  obtain ⟨rfl, hnormal, hcarry⟩ := h
  unfold Num64.magnitude
  simp only
  obtain hlt | ⟨hge, hlt⟩ | rfl : q < 2 ^ 52 ∨ (2 ^ 52 ≤ q ∧ q < 2 ^ 53) ∨ q = 2 ^ 53 := by omega
  · obtain rfl : s = 0 := by omega
    have he : (0 * 2 ^ 52 + q) / 2 ^ 52 = 0 := by omega
    rw [if_pos he]
    omega
  · have he : (s * 2 ^ 52 + q) / 2 ^ 52 = s + 1 := by omega
    have hf : 2 ^ 52 + (s * 2 ^ 52 + q) % 2 ^ 52 = q := by omega
    rw [he, hf, if_neg (by omega), Nat.add_sub_cancel]
  · have he : (s * 2 ^ 52 + 2 ^ 53) / 2 ^ 52 = s + 2 := by omega
    have hf : (s * 2 ^ 52 + 2 ^ 53) % 2 ^ 52 = 0 := by omega
    rw [he, hf, if_neg (by omega), Nat.add_sub_assoc (by omega), Nat.add_zero]
    ring

theorem exists_scaled (m : Nat) : ∃ s q, Scaled m s q ∧ q < 2 ^ 53 := by
  by_cases hm : m < 2 ^ 52
  · exact ⟨0, m, ⟨by omega, .inl rfl, by omega⟩, by omega⟩
  · exact ⟨m / 2 ^ 52 - 1, 2 ^ 52 + m % 2 ^ 52, ⟨by omega, .inr (by omega), by omega⟩, by omega⟩

theorem magnitude_strictMono : StrictMono Num64.magnitude := by
  refine strictMono_nat_of_lt_succ fun m => ?_
  obtain ⟨s, q, h, hq⟩ := exists_scaled m
  have hnext : Scaled (m + 1) s (q + 1) := ⟨by have := h.pattern; omega, h.normal.imp_right (by omega), hq⟩
  rw [h.magnitude, hnext.magnitude]
  exact Nat.mul_lt_mul_of_pos_right (Nat.lt_succ_self q) (by positivity)

/-- A pattern's magnitude is a multiple of `2^s`, or lies below every significand that is normal at the scale `2^s`. -/
theorem magnitude_on_grid_or_below (s m : Nat) :
    (∃ q, Num64.magnitude m = q * 2 ^ s) ∨ (0 < s ∧ Num64.magnitude m < 2 ^ 52 * 2 ^ s) := by
  obtain ⟨s', q, h, hq⟩ := exists_scaled m
  rw [h.magnitude]
  obtain hle | hlt := le_or_gt s s'
  · refine .inl ⟨q * 2 ^ (s' - s), ?_⟩
    rw [mul_assoc, ← pow_add, Nat.sub_add_cancel hle]
  · refine .inr ⟨by omega, ?_⟩
    calc q * 2 ^ s' < 2 ^ 53 * 2 ^ s' := Nat.mul_lt_mul_of_pos_right hq (by positivity)
      _ = 2 ^ 52 * 2 ^ (s' + 1) := by ring
      _ ≤ 2 ^ 52 * 2 ^ s := Nat.mul_le_mul_left _ (Nat.pow_le_pow_right (by omega) hlt)

/-! ### Rounding to the nearest integer -/

/-- The distance of `n / d` from the integer it is rounded to is at most one half, and one half only where the integer
is even. -/
theorem roundNearestEven_dist (n : Nat) {d : Nat} (hd : 0 < d) :
    2 * |(roundNearestEven n d * d - n : Int)| < d ∨
      (2 * |(roundNearestEven n d * d - n : Int)| = d ∧ roundNearestEven n d % 2 = 0) := by
  have hdiv : (d : Int) * (n / d : Nat) + (n % d : Nat) = n := by exact_mod_cast Nat.div_add_mod n d
  have hmod : n % d < d := Nat.mod_lt n hd
  have hlow : ((n / d : Nat) * d - n : Int) = -(n % d : Nat) := by linarith
  have hhigh : ((n / d + 1 : Nat) * d - n : Int) = d - (n % d : Nat) := by push_cast at *; linarith
  unfold roundNearestEven
  simp only
  split_ifs with hbelow habove heven
  · rw [hlow, abs_neg, Nat.abs_cast]
    omega
  · rw [hhigh, abs_of_nonneg (by omega)]
    omega
  · rw [hlow, abs_neg, Nat.abs_cast]
    omega
  · rw [hhigh, abs_of_nonneg (by omega)]
    omega

theorem roundNearestEven_bounds (n d : Nat) : n / d ≤ roundNearestEven n d ∧ roundNearestEven n d ≤ n / d + 1 := by
  unfold roundNearestEven
  simp only
  split_ifs <;> omega

/-- No multiple of `d` is nearer to `n` than the one given, and where another is equally near, that one is even. -/
theorem roundNearestEven_nearest (n : Nat) {d : Nat} (hd : 0 < d) (q : Nat) :
    |(roundNearestEven n d * d - n : Int)| ≤ |(q * d - n : Int)| ∧
      (|(roundNearestEven n d * d - n : Int)| = |(q * d - n : Int)| → q ≠ roundNearestEven n d →
        roundNearestEven n d % 2 = 0) := by
  obtain rfl | hne := eq_or_ne q (roundNearestEven n d)
  · exact ⟨le_rfl, fun _ h => absurd rfl h⟩
  · have hstep : (d : Int) ≤ |(q * d - roundNearestEven n d * d : Int)| := by
      rw [← sub_mul, abs_mul, Nat.abs_cast]
      have hone : 1 ≤ |(q - roundNearestEven n d : Int)| := Int.one_le_abs (by omega)
      exact le_mul_of_one_le_left (by omega) hone
    have htriangle := abs_sub_le (q * d : Int) n (roundNearestEven n d * d)
    rw [abs_sub_comm (n : Int)] at htriangle
    have hdist := roundNearestEven_dist n hd
    omega

/-! ### Rounding to the nearest pattern -/

/-- The pattern that `roundMagnitude` gives, before the test of overflow. -/
def roundedPattern (n d : Nat) : Nat :=
  (Nat.log2 (n / d) - 52) * 2 ^ 52 + roundNearestEven n (d * 2 ^ (Nat.log2 (n / d) - 52))

theorem roundMagnitude_eq_some_iff {n d : Nat} {m : Fin Num64.limit} :
    roundMagnitude n d = some m ↔ roundedPattern n d = m.val := by
  unfold roundMagnitude roundedPattern
  simp only
  split_ifs with h
  · simp [Fin.ext_iff]
  · simp only [false_iff]
    omega

theorem roundMagnitude_eq_none_iff {n d : Nat} : roundMagnitude n d = none ↔ Num64.limit ≤ roundedPattern n d := by
  unfold roundMagnitude roundedPattern
  simp only
  split_ifs with h
  · simpa using h
  · simpa using h

/-- `n / d` at the scale that the rounding chooses: below `2^53`, and at least `2^52` unless the scale is 1. -/
theorem scale_bounds (n : Nat) {d : Nat} (hd : 0 < d) :
    n < 2 ^ 53 * (d * 2 ^ (Nat.log2 (n / d) - 52)) ∧
      (Nat.log2 (n / d) - 52 = 0 ∨ 2 ^ 52 * (d * 2 ^ (Nat.log2 (n / d) - 52)) ≤ n) := by
  constructor
  · have hlt : n / d < 2 ^ (53 + (Nat.log2 (n / d) - 52)) :=
      lt_of_lt_of_le Nat.lt_log2_self (Nat.pow_le_pow_right (by omega) (by omega))
    calc n < 2 ^ (53 + (Nat.log2 (n / d) - 52)) * d := (Nat.div_lt_iff_lt_mul hd).mp hlt
      _ = 2 ^ 53 * (d * 2 ^ (Nat.log2 (n / d) - 52)) := by rw [pow_add]; ring
  · refine or_iff_not_imp_left.mpr fun hscale => ?_
    have hne : n / d ≠ 0 := fun h => hscale (by rw [h]; rfl)
    have hlog : 52 + (Nat.log2 (n / d) - 52) = Nat.log2 (n / d) := by omega
    calc 2 ^ 52 * (d * 2 ^ (Nat.log2 (n / d) - 52)) = 2 ^ (52 + (Nat.log2 (n / d) - 52)) * d := by rw [pow_add]; ring
      _ = 2 ^ Nat.log2 (n / d) * d := by rw [hlog]
      _ ≤ n / d * d := Nat.mul_le_mul_right d (Nat.log2_self_le hne)
      _ ≤ n := Nat.div_mul_le_self n d

theorem roundedPattern_scaled (n : Nat) {d : Nat} (hd : 0 < d) :
    Scaled (roundedPattern n d) (Nat.log2 (n / d) - 52) (roundNearestEven n (d * 2 ^ (Nat.log2 (n / d) - 52))) := by
  obtain ⟨hhigh, hlow⟩ := scale_bounds n hd
  have hpos : 0 < d * 2 ^ (Nat.log2 (n / d) - 52) := by positivity
  obtain ⟨hge, hle⟩ := roundNearestEven_bounds n (d * 2 ^ (Nat.log2 (n / d) - 52))
  refine ⟨rfl, hlow.imp_right fun h => ((Nat.le_div_iff_mul_le hpos).mpr h).trans hge, hle.trans ?_⟩
  exact (Nat.div_lt_iff_lt_mul hpos).mpr hhigh

/-- No pattern is nearer to `n / d` than `m`, and where another is equally near, `m` is even. Patterns are unbounded
here. -/
def NearestPattern (n d m : Nat) : Prop :=
  ∀ w, |(Num64.magnitude m * d - n : Int)| ≤ |(Num64.magnitude w * d - n : Int)| ∧
    (|(Num64.magnitude m * d - n : Int)| = |(Num64.magnitude w * d - n : Int)| → w ≠ m → m % 2 = 0)

theorem roundedPattern_nearest (n : Nat) {d : Nat} (hd : 0 < d) : NearestPattern n d (roundedPattern n d) := by
  intro w
  have hscaled := roundedPattern_scaled n hd
  obtain ⟨-, hlow⟩ := scale_bounds n hd
  have hmag := hscaled.magnitude
  have hpattern := hscaled.pattern
  generalize roundedPattern n d = m at *
  generalize Nat.log2 (n / d) - 52 = s at *
  have hgrid : ∀ q : Nat, ((q * 2 ^ s : Nat) * d : Int) = q * (d * 2 ^ s : Nat) := fun q => by push_cast; ring
  have hnearest := roundNearestEven_nearest n (d := d * 2 ^ s) (by positivity)
  generalize roundNearestEven n (d * 2 ^ s) = r at *
  rw [hmag, hgrid]
  obtain ⟨q, hw⟩ | ⟨hs, hw⟩ := magnitude_on_grid_or_below s w
  · obtain ⟨hle, htie⟩ := hnearest q
    rw [hw, hgrid]
    refine ⟨hle, fun heq hne => ?_⟩
    have hqr : q ≠ r := by
      rintro rfl
      exact hne (magnitude_strictMono.injective (hw.trans hmag.symm))
    have := htie heq hqr
    omega
  · have hbelow : Num64.magnitude w * d < 2 ^ 52 * (d * 2 ^ s) := by
      calc Num64.magnitude w * d < 2 ^ 52 * 2 ^ s * d := Nat.mul_lt_mul_of_pos_right hw hd
        _ = 2 ^ 52 * (d * 2 ^ s) := by ring
    have hleast : 2 ^ 52 * (d * 2 ^ s) ≤ n := hlow.resolve_left hs.ne'
    obtain ⟨hle, -⟩ := hnearest (2 ^ 52)
    have hfarther : |((2 ^ 52 : Nat) * (d * 2 ^ s : Nat) - n : Int)| < |(Num64.magnitude w * d - n : Int)| := by
      rw [abs_of_nonpos (by omega), abs_of_nonpos (by omega)]
      omega
    have hlt := hle.trans_lt hfarther
    exact ⟨hlt.le, fun heq => absurd heq hlt.ne⟩

end Sys2Proof.Machine
end

section
/-! PROOFS. The family 41_pid.md: each binary64 operation rounds its exact result once (R120), and overflows at the
binary64 bound (R122); `EPS_DT` (R7). -/

namespace Sys2Proof.Machine

/-! ### Rounding with a sign -/

theorem magnitude_zero : Num64.magnitude 0 = 0 := by
  have h : Scaled 0 0 0 := ⟨rfl, .inl rfl, by omega⟩
  rw [h.magnitude, zero_mul]

/-- The value of a `NUM` by its sign; for the two zeros both forms are 0. -/
theorem toInt_eq (x : Num64) :
    Num64.toInt x = if x.neg then -(Num64.magnitude x.mag.val : Int) else (Num64.magnitude x.mag.val : Int) := by
  unfold Num64.toInt
  split_ifs with hzero hneg
  · rw [hzero, magnitude_zero]
    rfl
  · rw [hzero, magnitude_zero]
    rfl
  · rfl
  · rfl

theorem abs_toInt (x : Num64) : |Num64.toInt x| = Num64.magnitude x.mag.val := by
  rw [toInt_eq]
  split_ifs
  · rw [abs_neg, Nat.abs_cast]
  · rw [Nat.abs_cast]

/-- A rounded result takes the sign of the exact result, which is `k / d`. -/
theorem toInt_of_ofRatio {zs : Bool} {k : Int} {d : Nat} {x : Num64}
    (h : Num64.ofRatio zs (decide (k < 0)) k.natAbs d = some x) :
    Num64.toInt x = if k < 0 then -(Num64.magnitude x.mag.val : Int) else (Num64.magnitude x.mag.val : Int) := by
  obtain ⟨-, hneg⟩ := ofRatio_some h
  rw [toInt_eq, hneg]
  by_cases hzero : x.mag.val = 0
  · simp [hzero, magnitude_zero]
  · simp [hzero]

/-- The rounded result is the value nearest to the exact result `k / d`, ties to even (41_pid.md R120). -/
theorem ofRatio_nearest {zs : Bool} {k : Int} {d : Nat} (hd : 0 < d) {x : Num64}
    (h : Num64.ofRatio zs (decide (k < 0)) k.natAbs d = some x) (w : Num64) :
    |Num64.toInt x * d - k| ≤ |Num64.toInt w * d - k| ∧
      (|Num64.toInt x * d - k| = |Num64.toInt w * d - k| → Num64.toInt w ≠ Num64.toInt x → x.mag.val % 2 = 0) := by
  have hsign := toInt_of_ofRatio h
  have hnearest : NearestPattern k.natAbs d x.mag.val :=
    roundMagnitude_eq_some_iff.mp (ofRatio_some h).1 ▸ roundedPattern_nearest k.natAbs hd
  have hx : |Num64.toInt x * d - k| = |(Num64.magnitude x.mag.val * d - k.natAbs : Int)| := by
    rw [hsign]
    split_ifs with hk
    · have hk' : (k.natAbs : Int) = -k := by omega
      rw [hk', ← abs_neg]
      congr 1
      ring
    · have hk' : (k.natAbs : Int) = k := by omega
      rw [hk']
  have hw : |(Num64.magnitude w.mag.val * d - k.natAbs : Int)| ≤ |Num64.toInt w * d - k| := by
    have := abs_abs_sub_abs_le_abs_sub (Num64.toInt w * d) k
    rwa [abs_mul, abs_toInt, Nat.abs_cast, ← Int.natCast_natAbs k] at this
  obtain ⟨hle, htie⟩ := hnearest w.mag.val
  refine ⟨hx ▸ hle.trans hw, fun heq hne => htie (le_antisymm hle (hw.trans (heq ▸ hx.le))) fun hmag => ?_⟩
  have hopposite : Num64.toInt w = -Num64.toInt x := by
    have habs : |Num64.toInt w| = |Num64.toInt x| := by rw [abs_toInt, abs_toInt, hmag]
    exact (abs_eq_abs.mp habs).resolve_left hne
  have hx0 : Num64.toInt x * d = 0 := by
    rw [hopposite, neg_mul] at heq
    obtain hsame | hsum := abs_eq_abs.mp heq
    · omega
    · obtain rfl : k = 0 := by omega
      have hzero := (hnearest 0).1
      rw [← hx, magnitude_zero, sub_zero] at hzero
      exact abs_nonpos_iff.mp (hzero.trans (by simp))
  have : Num64.toInt x = 0 := (mul_eq_zero.mp hx0).resolve_right (by omega)
  omega

/-- A quotient is rounded from its exact value, whose numerator takes the sign of the divisor. -/
theorem div_eq_ofRatio {y : Num64} (hy : Num64.toInt y ≠ 0) (zs : Bool) (x : Num64) :
    Num64.div zs x y = Num64.ofRatio zs (decide (Num64.toInt x * 2 ^ 1074 * (Num64.toInt y).sign < 0))
      (Num64.toInt x * 2 ^ 1074 * (Num64.toInt y).sign).natAbs (Num64.toInt y).natAbs := by
  have hunits : (2 ^ 1074 : Int).sign = 1 := Int.sign_eq_one_of_pos (by positivity)
  have hsign : (Num64.toInt x * 2 ^ 1074 * (Num64.toInt y).sign).sign = (Num64.toInt x * Num64.toInt y).sign := by
    rw [Int.sign_mul, Int.sign_mul, Int.sign_mul, Int.sign_sign, hunits, mul_one]
  have hneg : decide (Num64.toInt x * 2 ^ 1074 * (Num64.toInt y).sign < 0) =
      decide (Num64.toInt x * Num64.toInt y < 0) := by
    rw [decide_eq_decide, ← Int.sign_eq_neg_one_iff_neg, hsign, Int.sign_eq_neg_one_iff_neg]
  have htwo : Int.natAbs 2 = 2 := rfl
  rw [Num64.div, if_neg hy, hneg, Int.natAbs_mul, Int.natAbs_mul, Int.natAbs_sign_of_ne_zero hy, mul_one,
    Int.natAbs_pow, htwo]

theorem abs_mul_sub_eq_natAbs {l : Int} (hl : l ≠ 0) (z k : Int) : |z * l - k| = |z * l.natAbs - k * l.sign| := by
  calc |z * l - k| = |(z * l - k) * l.sign| := by rw [abs_mul, Int.abs_sign_of_ne_zero hl, mul_one]
    _ = |z * l.natAbs - k * l.sign| := by rw [sub_mul, mul_assoc, Int.mul_sign_self]

/-- Settles O47: each operation rounds its exact result by `ofRatio_nearest`. -/
theorem operationsRoundToNearestEven : Obligations.OperationsRoundToNearestEven := by
  intro zs x y z w
  refine ⟨fun h => ?_, fun h => ?_, fun h => ?_, fun h => ?_⟩
  · simpa only [Nat.cast_one, mul_one] using ofRatio_nearest one_pos h w
  · simpa only [Nat.cast_one, mul_one] using ofRatio_nearest one_pos h w
  · simpa only [Nat.cast_pow, Nat.cast_ofNat] using ofRatio_nearest (by positivity) h w
  · have hy : Num64.toInt y ≠ 0 := fun hy => by simp [Num64.div, hy] at h
    rw [div_eq_ofRatio hy] at h
    rw [abs_mul_sub_eq_natAbs hy, abs_mul_sub_eq_natAbs hy]
    exact ⟨hy, ofRatio_nearest (Int.natAbs_pos.mpr hy) h w⟩

/-! ### Overflow -/

theorem magnitude_limit : Num64.magnitude Num64.limit = 2 ^ 54 * 2 ^ 2044 := by
  have h : Scaled Num64.limit 2045 (2 ^ 53) := ⟨by decide, .inr (by decide), le_rfl⟩
  rw [h.magnitude, pow_succ 2 2044]
  omega

theorem magnitude_greatest : Num64.magnitude (Num64.limit - 1) = (2 ^ 54 - 2) * 2 ^ 2044 := by
  have h : Scaled (Num64.limit - 1) 2045 (2 ^ 53 - 1) := ⟨by decide, .inr (by decide), by decide⟩
  rw [h.magnitude, pow_succ 2 2044]
  omega

/-- A nearest pattern is out of range iff `n / d` reaches the middle between the greatest value and the pattern after
it; the middle itself goes to the latter, which is even. -/
theorem NearestPattern.limit_le_iff {n d m : Nat} (hd : 0 < d) (h : NearestPattern n d m) :
    Num64.limit ≤ m ↔ ((2 ^ 54 - 1) * 2 ^ 2044 : Int) * d ≤ n := by
  have hlimit : (Num64.magnitude Num64.limit * d : Int) = 2 ^ 54 * (2 ^ 2044 * d) := by
    rw [magnitude_limit, Nat.cast_mul, Nat.cast_pow, Nat.cast_pow, Nat.cast_ofNat, mul_assoc]
  have hgreatest : (Num64.magnitude (Num64.limit - 1) * d : Int) = (2 ^ 54 - 2) * (2 ^ 2044 * d) := by
    have hcast : ((2 ^ 54 - 2 : Nat) : Int) = 2 ^ 54 - 2 := by norm_num
    rw [magnitude_greatest, Nat.cast_mul, hcast, Nat.cast_pow, Nat.cast_ofNat, mul_assoc]
  have hpos : 0 < (2 ^ 2044 * d : Int) := by positivity
  rw [mul_assoc]
  generalize (2 ^ 2044 * d : Int) = half at *
  have hmono : ∀ {a b : Nat}, a ≤ b → (Num64.magnitude a * d : Int) ≤ Num64.magnitude b * d := fun hab => by
    exact_mod_cast Nat.mul_le_mul_right d (magnitude_strictMono.monotone hab)
  constructor
  · intro hm
    have hle := hmono hm
    have hnear := (h (Num64.limit - 1)).1
    rw [hgreatest] at hnear
    rw [hlimit] at hle
    by_contra hlt
    rw [abs_of_pos (by omega), le_abs] at hnear
    omega
  · intro hn
    by_contra hm
    have hle := hmono (show m ≤ Num64.limit - 1 by omega)
    obtain ⟨hnear, htie⟩ := h Num64.limit
    rw [hlimit] at hnear htie
    rw [hgreatest] at hle
    have hbelow : |(Num64.magnitude m * d - n : Int)| = n - Num64.magnitude m * d := by
      rw [abs_of_neg (by omega), neg_sub]
    have habove : |(2 ^ 54 * half - n : Int)| = 2 ^ 54 * half - n := by
      refine abs_of_nonneg ?_
      by_contra hneg
      rw [hbelow, abs_of_neg (by omega)] at hnear
      omega
    rw [hbelow, habove] at hnear htie
    have heven : m % 2 = 0 := htie (by omega) (by omega)
    have hmag : Num64.magnitude m = Num64.magnitude (Num64.limit - 1) := by
      refine Nat.eq_of_mul_eq_mul_right hd ?_
      have heq : (Num64.magnitude m * d : Int) = Num64.magnitude (Num64.limit - 1) * d := by omega
      exact_mod_cast heq
    obtain rfl := magnitude_strictMono.injective hmag
    exact absurd heven (by decide)

theorem ofRatio_eq_none_iff {zs neg : Bool} {n d : Nat} (hd : 0 < d) :
    Num64.ofRatio zs neg n d = none ↔ ((2 ^ 54 - 1) * 2 ^ 2044 : Int) * d ≤ n := by
  rw [Num64.ofRatio, Option.map_eq_none_iff, roundMagnitude_eq_none_iff]
  exact (roundedPattern_nearest n hd).limit_le_iff hd

/-- Settles O48: `ofRatio_eq_none_iff` on the magnitude of each exact result. -/
theorem operationsOverflowAtTheBinary64Bound : Obligations.OperationsOverflowAtTheBinary64Bound := by
  intro zs x y
  refine ⟨?_, ?_, ?_, ?_⟩
  · rw [Num64.add, ofRatio_eq_none_iff one_pos, Int.natCast_natAbs, Nat.cast_one, mul_one]
  · rw [Num64.sub, ofRatio_eq_none_iff one_pos, Int.natCast_natAbs, Nat.cast_one, mul_one]
  · rw [Num64.mul, ofRatio_eq_none_iff (by positivity), Int.natCast_natAbs, Nat.cast_pow, Nat.cast_ofNat]
  · by_cases hy : Num64.toInt y = 0
    · exact iff_of_true (by rw [Num64.div, if_pos hy]) (.inl hy)
    · rw [div_eq_ofRatio hy, ofRatio_eq_none_iff (Int.natAbs_pos.mpr hy), Int.natCast_natAbs, Int.natCast_natAbs,
        abs_mul, abs_mul, Int.abs_sign_of_ne_zero hy, mul_one, abs_of_pos (show (0 : Int) < 2 ^ 1074 by positivity),
        or_iff_right hy]

/-! ### `EPS_DT` -/

/-- Settles O49: the default is the quotient of the units of 1 by `10^6`, rounded, so `ofRatio_nearest` applies. -/
theorem defaultEpsIsNearestOneMillionth : Obligations.DefaultEpsIsNearestOneMillionth := by
  have hround : Num64.ofRatio false (decide ((2 ^ 1074 : Int) < 0)) (2 ^ 1074 : Int).natAbs (10 ^ 6) =
      some Config.epsDt := by
    decide +kernel
  refine ⟨⟨rfl, by norm_num [exact]⟩, fun _ => rfl, by decide +kernel, fun w => ?_⟩
  exact_mod_cast (ofRatio_nearest (by positivity) hround w).1

end Sys2Proof.Machine
end

section
/-! PROOFS. The family 60_exceptions.md: how `B.life` moves (R175 to R177). First what one event of an agent, or one
operation, can do to it, said once; the statements about the lifecycle are read off that. -/

namespace Sys2Proof.Machine

variable {α : Type}

/-! ### What an event of a `QEDGE` leaves of the lifecycle -/

@[simp] theorem advanceEdge_life (lvA lvB : Level) (s : State α) : (advanceEdge lvA lvB s).b.life = s.b.life := by
  simp [advanceEdge_frame]
@[simp] theorem advanceEdge_run (lvA lvB : Level) (s : State α) : (advanceEdge lvA lvB s).b.run = s.b.run := by
  simp [advanceEdge_frame]
@[simp] theorem beginEdge_life (ch : Channel) (ts : Slot) (rest : List Channel) (s : State α) :
    (beginEdge ch ts rest s).b.life = s.b.life := by
  simp [beginEdge_frame]
@[simp] theorem beginEdge_run (ch : Channel) (ts : Slot) (rest : List Channel) (s : State α) :
    (beginEdge ch ts rest s).b.run = s.b.run := by
  simp [beginEdge_frame]
@[simp] theorem settleEdge_life (s : State α) : (settleEdge s).b.life = s.b.life := by
  simp [settleEdge_frame]
@[simp] theorem settleEdge_run (s : State α) : (settleEdge s).b.run = s.b.run := by
  simp [settleEdge_frame]
@[simp] theorem wholeEdge_life (ch : Channel) (ts : Slot) (lvA lvB : Level) (rest : List Channel) (s : State α) :
    (wholeEdge ch ts lvA lvB rest s).b.life = s.b.life := by
  simp [wholeEdge, finishEdge]

/-! ### The moves of `B.life` -/

/-- A phase is read iff neither level read fails (40_qdec.md R81, R86). -/
theorem phaseOf_eq_none_iff (lvA lvB : Level) : phaseOf lvA lvB = none ↔ lvA = .fail ∨ lvB = .fail := by
  cases lvA <;> cases lvB <;> decide

/-- What may become of `B.life`, between two block levels, while the given operation runs whole, or while an agent takes
an event that is no operation (60_exceptions.md R175 to R177; 70_reset_and_hazards.md R190, R192). -/
inductive LifeMoves (b b' : Block) : Option Instr → Prop
  | stays {i : Option Instr} (hlife : b'.life = b.life) : LifeMoves b b' i
  | constructed {lvA lvB : Level} (hfrom : b.life = .unbuilt) (hto : b'.life = .running)
      (hlevels : ¬ (lvA = .fail ∨ lvB = .fail)) : LifeMoves b b' (some (.bconstruct false lvA lvB))
  | constructFailed {fails : Bool} {lvA lvB : Level} (hfrom : b.life = .unbuilt) (hto : b'.life = .failed)
      (hcause : fails = true ∨ lvA = .fail ∨ lvB = .fail) : LifeMoves b b' (some (.bconstruct fails lvA lvB))
  | exits {i : Option Instr} (hfrom : b.life = .running) (hto : b'.life = .stopped) (hrun : b.run = false)
      (hgone : b'.consumer = .gone) : LifeMoves b b' i
  | releases {i : Option Instr} (hfrom : b.life = .stopped) (hto : b'.life = .released)
      (hsource : b'.source = .released) : LifeMoves b b' i

theorem reachEdge_lifeMoves (ch : Channel) (ts : Slot) (lvA lvB : Level) {s : State} (hlife : s.b.life = .running)
    (i : Option Instr) : LifeMoves s.b (reachEdge ch ts lvA lvB s).b i := by
  obtain h | ⟨hrun, h⟩ | ⟨rest, -, h⟩ := reachEdge_cases ch ts lvA lvB s
  · exact .stays (by rw [h])
  · exact .exits hlife (by simp [h]) hrun (by simp [h])
  · exact .stays (by simp [h])

/-- A turn of the consumer moves `B.life` only at the top of an iteration (40_qdec.md R80). -/
theorem consumerTurn_lifeMoves (a : Answers) (s : State α) : LifeMoves s.b (consumerTurn a s).b none := by
  by_cases hlife : s.b.life = .running
  swap
  · exact .stays (by rw [consumerTurn_not_running a hlife])
  cases hc : s.b.consumer with
  | gone => exact .stays (by rw [consumerTurn_gone a hlife hc])
  | top =>
    rw [consumerTurn_top a hlife hc]
    cases hrun : s.b.run with
    | true => exact .stays rfl
    | false => exact .exits hlife rfl hrun rfl
  | blocked => exact .stays (by simp [consumerTurn_blocked a hlife hc])
  | servicing todo =>
    cases todo with
    | nil => exact .stays (by simp [consumerTurn_servicing_nil a hlife hc])
    | cons ch rest =>
      cases ha : a.event with
      | none => exact .stays (by simp [consumerTurn_noEvent a hlife hc ha])
      | some ts => exact .stays (by simp [consumerTurn_event a hlife hc ha])
  | inEdge rest stage => exact .stays (by simp [consumerTurn_inEdge a hlife hc])

/-- A join releases where a `BRELEASE` waits and the consumer has exited, and does nothing else (R177). -/
theorem joinRelease_cases (s : State α) :
    (s.b.joining = true ∧ s.b.life = .stopped ∧ joinRelease s = release s) ∨ joinRelease s = s := by
  unfold joinRelease
  split_ifs with h
  · exact .inl ⟨h.1, h.2, rfl⟩
  · exact .inr rfl

theorem joinRelease_of_not_stopped {s : State α} (h : s.b.life ≠ .stopped) : joinRelease s = s := by
  obtain ⟨-, hstopped, -⟩ | h := joinRelease_cases s
  · exact absurd hstopped h
  · exact h

theorem joinRelease_lifeMoves (s : State α) : LifeMoves s.b (joinRelease s).b none := by
  obtain ⟨-, hlife, h⟩ | h := joinRelease_cases s
  · exact .releases hlife (by simp [h]) (by simp [h])
  · exact .stays (by rw [h])

/-- A silent turn is one event of one agent: what a join releases has no consumer that could move. -/
theorem quietTurn_lifeMoves (s : State α) : LifeMoves s.b (quietTurn s).b none := by
  unfold quietTurn
  cases busyHost s with
  | some g => exact .stays (by simp)
  | none =>
    obtain ⟨-, hlife, h⟩ | h := joinRelease_cases s
    · have hout : (useFree 2 (release s)).b.life ≠ .running := by simp
      simp only [h, consumerTurn_not_running _ hout]
      exact .releases hlife rfl rfl
    · simp only [h]
      exact consumerTurn_lifeMoves _ (useFree 2 s)

/-- An operation moves `B.life` as its own rule says: only construction, release and the consumer that a `QEDGE` record
brings to the top of an iteration do. -/
theorem Leaves.lifeMoves {i : Instr} {s t : State} (h : Leaves numSys s i t) : LifeMoves s.b t.b (some i) := by
  cases h with
  | notReady | illegalCmd | read | qreset | qsetDebounce | pstep | preset | psetKp | psetKi | psetKd | psetAwGain |
      psetOutLimits | psetIntLimits | bstop | joining | noEffect => exact .stays rfl
  | @qedge ch ts lvA lvB hlife =>
    have hsettled : (settleEdge s).b.life = .running := by simpa using hlife
    cases reachEdge_lifeMoves ch ts lvA lvB hsettled (some (.qedge ch ts lvA lvB)) with
    | stays h => exact .stays (by simpa using h)
    | exits _ hto hrun hgone => exact .exits hlife hto (by simpa using hrun) hgone
    | releases hfrom => simp [hlife] at hfrom
  | constructed hlife hphase =>
    exact .constructed hlife rfl (by simp [← phaseOf_eq_none_iff, hphase])
  | notAcquired hlife => exact .constructFailed hlife rfl (.inl rfl)
  | levelsFailed hlife hphase => exact .constructFailed hlife rfl (.inr ((phaseOf_eq_none_iff _ _).mp hphase))
  | released hlife => exact .releases hlife rfl rfl

/-- A command leaves the block level alone (10_state.md R32). -/
theorem serveCommand_b {g : HostAgent} {w : Record} {pace : Pace} {s t : State}
    (h : serveCommand exec g w pace s = .next t) : t.b = s.b := by
  obtain ⟨-, rfl⟩ | ⟨left, -, -, rfl⟩ | ⟨i, hi, hexec⟩ := serveCommand_cases h
  · unfold rejectCommand
    split_ifs <;> rfl
  · exact beginReset_b g left s
  · obtain ⟨-, hkind⟩ := (commandOf_eq_some_iff w i).mp hi
    obtain ⟨⟨-, -, -, hb, -⟩, -⟩ := commandsWriteOnlyTheirElements i s t hkind hexec
    exact hb

/-- The operation, if there is one, is that of the record of a trace at the head of the inbox. -/
def RecordAtHead (i : Option Instr) (s : State) : Prop :=
  ∀ j, i = some j → ∃ w rest, s.inbox = .environment w :: rest ∧ decode w = .ok j

/-- A step moves `B.life` as the record of a trace at the head of the inbox lets it, or as an agent's event does. -/
theorem step_lifeMoves {s t : State} (h : step s = .next t) : ∃ i, LifeMoves s.b t.b i ∧ RecordAtHead i s := by
  obtain ⟨-, rfl⟩ | ⟨g, w, pace, rest, -, hserve⟩ | ⟨w, i, rest, hin, hw, hexec⟩ | ⟨a, rest, -, rfl⟩ |
    ⟨g, rest, -, rfl⟩ | ⟨rest, -, rfl⟩ := step_cases h
  · exact ⟨none, quietTurn_lifeMoves (fetched [] s), nofun⟩
  · exact ⟨none, .stays (by simp [serveCommand_b hserve, serveHost]), nofun⟩
  · obtain ⟨hdecode, -, -⟩ := (stimulusOf_eq_some_iff s.params w i).mp hw
    exact ⟨some i, (leaves_of_exec hexec).lifeMoves, fun j hj => ⟨w, rest, hin, Option.some.inj hj ▸ hdecode⟩⟩
  · exact ⟨none, consumerTurn_lifeMoves a (fetched rest s), nofun⟩
  · exact ⟨none, .stays (by simp), nofun⟩
  · exact ⟨none, joinRelease_lifeMoves (fetched rest s), nofun⟩

/-- Settles O13: the moves of a step, a construction's under its record. -/
theorem lifecycleTransitions : Obligations.LifecycleTransitions := by
  intro s t h
  obtain ⟨i, hmoves, hrecord⟩ := step_lifeMoves h
  cases hmoves with
  | stays hlife => exact .inl hlife
  | constructed hfrom hto hlevels =>
    obtain ⟨w, rest, hin, hw⟩ := hrecord _ rfl
    obtain ⟨hA, hB⟩ := not_or.mp hlevels
    exact .inr (.inl ⟨hfrom, hto, _, _, w, rest, hin, hw, hA, hB⟩)
  | constructFailed hfrom hto hcause =>
    obtain ⟨w, rest, hin, hw⟩ := hrecord _ rfl
    exact .inr (.inr (.inl ⟨hfrom, hto, _, _, _, w, rest, hin, hw, hcause⟩))
  | exits hfrom hto hrun hgone => exact .inr (.inr (.inr (.inl ⟨hfrom, hto, hrun, hgone⟩)))
  | releases hfrom hto hsource => exact .inr (.inr (.inr (.inr ⟨hfrom, hto, hsource⟩)))

end Sys2Proof.Machine
end

section
/-! PROOFS. The family 60_exceptions.md: construction happens once, the stop, the release, and the consumer's exit (R175
to R177). -/

namespace Sys2Proof.Machine

/-! ### The operations of the lifecycle -/

/-- Settles O55: the operation is guarded by `UNBUILT`. -/
theorem constructionHappensOnce : Obligations.ConstructionHappensOnce := fun _ _ _ _ hlife => if_neg hlife

/-- Settles O56: the operation is guarded by `RUNNING`. -/
theorem stopClearsTheRunningFlag : Obligations.StopClearsTheRunningFlag :=
  fun _ => ⟨fun hlife => if_pos hlife, fun hlife => if_neg hlife⟩

/-- A join stimulus lets a waiting release look (60_exceptions.md R177). -/
theorem step_join {s : State} {rest : List Stimulus} (h : s.inbox = .join :: rest) :
    step s = .next (joinRelease (fetched rest s)) := by
  rw [step, stepWith, h]

theorem joinRelease_of_stopped {s : State} (hjoining : s.b.joining = true) (hlife : s.b.life = .stopped) :
    joinRelease s = release s := if_pos ⟨hjoining, hlife⟩

/-- Settles O58: the operation by lifecycle state, a later join, and the rejection of commands after the release. -/
theorem releaseFollowsTheConsumersExit : Obligations.ReleaseFollowsTheConsumersExit := by
  refine fun s => ⟨fun hlife => ?_, fun hlife => ?_, fun hlife => ?_, fun rest hin hjoining hlife => ?_,
    fun rest hin hlife => ?_, fun i hlife hkind => ?_⟩
  · simp only [exec, execBrelease, breleaseOver, hlife]
    rfl
  · simp only [exec, execBrelease, breleaseOver, hlife]
  · obtain hlife | hlife | hlife := hlife <;> simp only [exec, execBrelease, breleaseOver, hlife]
  · rw [step_join hin, joinRelease_of_stopped (s := fetched rest s) hjoining hlife]
    rfl
  · have hnot : (fetched rest s).b.life ≠ .stopped := by simp [hlife]
    rw [step_join hin, joinRelease_of_not_stopped hnot]
    rfl
  · have hobs : observable s = false := by simp [observable, hlife]
    exact exec_of_not_observable hkind hobs

/-! ### No way back from the exit -/

/-- A run that does not stop goes on from its first step. -/
theorem exists_step_of_run_succ {n : Nat} {s t : State} (h : Host.Core.run Sys2Proof.core (n + 1) s = .next t) :
    ∃ u, step s = .next u ∧ Host.Core.run Sys2Proof.core n u = .next t := by
  simp only [Host.Core.run] at h
  split at h
  · exact ⟨_, ‹_›, h⟩
  · cases h
  · cases h

/-- What every step keeps, every run keeps. -/
theorem run_keeps {P : State → Prop} (hkeeps : ∀ s t, P s → step s = .next t → P t) (n : Nat) {s t : State} (hs : P s)
    (hrun : Host.Core.run Sys2Proof.core n s = .next t) : P t := by
  induction n generalizing s with
  | zero => exact Host.Outcome.next.inj hrun ▸ hs
  | succ n ih =>
    obtain ⟨u, hstep, hrest⟩ := exists_step_of_run_succ hrun
    exact ih (hkeeps s u hs hstep) hrest

/-- The consumer has exited: the block is `STOPPED`, or has been released since. -/
def State.Exited (s : State) : Prop := s.b.life = .stopped ∨ s.b.life = .released

theorem step_keeps_exited (s t : State) (hs : s.Exited) (h : step s = .next t) : t.Exited := by
  unfold State.Exited at *
  obtain hlife | ⟨hfrom, -⟩ | ⟨hfrom, -⟩ | ⟨-, hto, -⟩ | ⟨-, hto, -⟩ := lifecycleTransitions s t h
  · exact hlife ▸ hs
  · simp [hfrom] at hs
  · simp [hfrom] at hs
  · exact .inl hto
  · exact .inr hto

/-- Settles O57: a turn outside `RUNNING` does nothing, and every step keeps the exit. -/
theorem exitedConsumerNeverReturns : Obligations.ExitedConsumerNeverReturns := by
  refine ⟨fun s a rest hin hlife => ?_, fun n s t hlife hrun => ?_⟩
  · rw [step_consumer hin, consumerTurn_not_running (s := fetched rest s) a hlife]
    rfl
  · exact run_keeps (P := State.Exited) step_keeps_exited n (.inl hlife) hrun

end Sys2Proof.Machine
end

section
/-! PROOFS. The family 60_exceptions.md: a stopped consumer exits in a silent environment (R176; 20_memory.md R50;
70_reset_and_hazards.md R211). Each silent turn ends a `QRESET` in flight or takes one of the turns that the consumer
has left. -/

namespace Sys2Proof.Machine

variable {α : Type}

/-! ### What a turn of the consumer leaves alone -/

@[simp] theorem consumerTurn_frame (a : Answers) (s : State α) :
    (consumerTurn a s).hosts = s.hosts ∧ (consumerTurn a s).inbox = s.inbox ∧ (consumerTurn a s).b.run = s.b.run := by
  by_cases hlife : s.b.life = .running
  swap
  · simp [consumerTurn_not_running a hlife]
  cases hc : s.b.consumer with
  | gone => simp [consumerTurn_gone a hlife hc]
  | top =>
    rw [consumerTurn_top a hlife hc]
    split_ifs <;> simp
  | blocked => simp [consumerTurn_blocked a hlife hc]
  | servicing todo =>
    cases todo with
    | nil => simp [consumerTurn_servicing_nil a hlife hc]
    | cons ch rest =>
      cases ha : a.event with
      | none => simp [consumerTurn_noEvent a hlife hc ha]
      | some ts => simp [consumerTurn_event a hlife hc ha, beginEdge_frame]
  | inEdge rest stage => simp [consumerTurn_inEdge a hlife hc, advanceEdge_frame]

/-! ### The resets in flight -/

/-- How many host agents have a `QRESET` in flight. -/
def resetsInFlight (h : Hosts) : Nat :=
  h.foreground.isSome.toNat + h.housekeeping.isSome.toNat + h.orchestrator.isSome.toNat

theorem resetsInFlight_le (h : Hosts) : resetsInFlight h ≤ 3 := by
  have hf := h.foreground.isSome.toNat_le
  have hh := h.housekeeping.isSome.toNat_le
  have ho := h.orchestrator.isSome.toNat_le
  unfold resetsInFlight
  omega

theorem inFlight_of_busyHost {s : State α} {g : HostAgent} (h : busyHost s = some g) : (inFlight g s).isSome = true := by
  unfold busyHost at h
  split_ifs at h <;> obtain rfl := Option.some.inj h <;> assumption

/-- Ending a `QRESET` in flight leaves one fewer. -/
theorem resetsInFlight_finishReset {s : State α} {g : HostAgent} (h : (inFlight g s).isSome = true) :
    resetsInFlight (finishReset g s).hosts < resetsInFlight s.hosts := by
  have hcleared : resetsInFlight (setInFlight g none s).hosts < resetsInFlight s.hosts := by
    cases g <;> simp only [inFlight] at h <;> simp [resetsInFlight, setInFlight, h]
  obtain ⟨hidle, -⟩ | ⟨-, heq⟩ | ⟨-, heq⟩ := finishReset_cases g s
  · simp [hidle] at h
  · rw [heq]
    cases g <;> exact hcleared
  · rw [heq]
    cases g <;> exact hcleared

/-! ### The turns left of the consumer -/

/-- A bound on the turns a stopped consumer takes in a silent environment, by its control state (40_qdec.md R80): an
edge has at most two events, then each channel of the wake answers none. -/
def turnsLeft : Consumer → Nat
  | .gone => 0
  | .top => 1
  | .blocked => 2
  | .servicing rest => rest.length + 2
  | .inEdge rest .accepted => rest.length + 4
  | .inEdge rest (.countLoaded _ _ _) => rest.length + 3
  | .inEdge rest (.illegalLoaded _ _) => rest.length + 3

theorem turnsLeft_pos {c : Consumer} (h : c ≠ .gone) : 0 < turnsLeft c := by
  cases c with
  | gone => exact absurd rfl h
  | top | blocked | servicing => exact Nat.succ_pos _
  | inEdge rest stage => cases stage <;> exact Nat.succ_pos _

theorem turnsLeft_afterChannel_le (rest : List Channel) : turnsLeft (afterChannel rest) ≤ rest.length + 2 := by
  cases rest <;> simp [afterChannel, turnsLeft]

theorem turnsLeft_advanceEdge (lvA lvB : Level) {s : State α} {rest : List Channel} {stage : EdgeStage}
    (hc : s.b.consumer = .inEdge rest stage) :
    turnsLeft (advanceEdge lvA lvB s).b.consumer < turnsLeft s.b.consumer := by
  have hafter := turnsLeft_afterChannel_le rest
  cases stage with
  | accepted =>
    have hbound : turnsLeft (advanceEdge lvA lvB s).b.consumer ≤ rest.length + 3 := by
      cases hp : phaseOf lvA lvB with
      | none =>
        rw [advanceEdge_readFail hc hp]
        exact hafter.trans (by omega)
      | some new =>
        cases hu : s.params.update with
        | rmw =>
          rw [advanceEdge_rmw hc hp hu]
          exact hafter.trans (by omega)
        | split =>
          rw [advanceEdge_split hc hp hu]
          unfold splitLoad
          simp only []
          split_ifs
          · exact le_rfl
          · exact le_rfl
          · exact hafter.trans (by omega)
    rw [hc]
    exact Nat.lt_succ_of_le hbound
  | countLoaded v delta new =>
    rw [advanceEdge_countLoaded hc, hc]
    exact Nat.lt_succ_of_le hafter
  | illegalLoaded v new =>
    rw [advanceEdge_illegalLoaded hc, hc]
    exact Nat.lt_succ_of_le hafter

/-- A silent turn of a stopped consumer leaves one fewer. -/
theorem turnsLeft_consumerTurn (lvA lvB : Level) {s : State α} (hlife : s.b.life = .running) (hrun : s.b.run = false)
    (hc : s.b.consumer ≠ .gone) :
    turnsLeft (consumerTurn (silent lvA lvB) s).b.consumer < turnsLeft s.b.consumer := by
  cases hcon : s.b.consumer with
  | gone => exact absurd hcon hc
  | top => simp [consumerTurn_top _ hlife hcon, hrun, turnsLeft]
  | blocked => simp [consumerTurn_blocked _ hlife hcon, silent, Ready.channels, afterChannel, turnsLeft]
  | servicing todo =>
    cases todo with
    | nil => simp [consumerTurn_servicing_nil _ hlife hcon, turnsLeft]
    | cons ch rest =>
      rw [consumerTurn_noEvent _ hlife hcon rfl]
      exact Nat.lt_succ_of_le (turnsLeft_afterChannel_le rest)
  | inEdge rest stage =>
    rw [consumerTurn_inEdge _ hlife hcon, ← hcon]
    exact turnsLeft_advanceEdge _ _ hcon

/-- A consumer in a legal state has five turns left at most: a wake has two channels, and inside an edge one is left. -/
theorem turnsLeft_le {s : State} (h : s.WakeCoherent) : turnsLeft s.b.consumer ≤ 5 := by
  unfold State.WakeCoherent at h
  cases hc : s.b.consumer with
  | gone | top | blocked => simp [turnsLeft]
  | servicing todo =>
    rw [hc] at h
    obtain ⟨hne, hnodup⟩ := h
    obtain ⟨ch, rest, rfl⟩ := List.exists_cons_of_ne_nil hne
    have hlen := length_le_one_of_nodup_cons hnodup
    simp only [turnsLeft, List.length_cons]
    omega
  | inEdge rest stage =>
    rw [hc] at h
    obtain ⟨hlen, -⟩ := h
    cases stage <;> simp only [turnsLeft] <;> omega

/-! ### The silent run -/

theorem step_silent {s : State} (h : s.inbox = []) : step s = .next (quietTurn (fetched [] s)) := by
  rw [step, stepWith, h]

@[simp] theorem joinRelease_inbox (s : State α) : (joinRelease s).inbox = s.inbox := by
  obtain ⟨-, -, h⟩ | h := joinRelease_cases s <;> simp [h]

@[simp] theorem quietTurn_inbox (s : State α) : (quietTurn s).inbox = s.inbox := by
  unfold quietTurn
  cases busyHost s <;> simp

/-- With no stimulus left a run never stops. -/
theorem run_silent (n : Nat) {s : State} (h : s.inbox = []) : ∃ t, Host.Core.run Sys2Proof.core n s = .next t := by
  induction n generalizing s with
  | zero => exact ⟨s, rfl⟩
  | succ n ih =>
    rw [run_succ (step_silent h)]
    exact ih (by simp)

/-- A legal state with no stimulus left, whose block the host has stopped and whose consumer has yet to exit. -/
structure State.Stopping (s : State) : Prop where
  inv : s.Inv
  silent : s.inbox = []
  life : s.b.life = .running
  stopped : s.b.run = false

theorem State.Stopping.consumer_ne_gone {s : State} (h : s.Stopping) : s.b.consumer ≠ .gone :=
  ((lifeCoherent_of_running h.life).mp h.inv.outsideWake.life).2

/-- The silent turns that lead to the consumer's exit, at most. -/
def State.quietTurnsLeft (s : State) : Nat := resetsInFlight s.hosts + turnsLeft s.b.consumer

/-- What a silent turn does while the consumer has yet to exit: one fewer is left, and `B.run` stays 0. -/
theorem quietTurn_of_running {s : State} (hlife : s.b.life = .running) (hrun : s.b.run = false)
    (hc : s.b.consumer ≠ .gone) : (quietTurn s).quietTurnsLeft < s.quietTurnsLeft ∧ (quietTurn s).b.run = false := by
  unfold quietTurn State.quietTurnsLeft
  cases hbusy : busyHost s with
  | some g =>
    have hfewer := resetsInFlight_finishReset (inFlight_of_busyHost hbusy)
    exact ⟨by simpa using hfewer, by simpa using hrun⟩
  | none =>
    have hnot : s.b.life ≠ .stopped := by simp [hlife]
    have hfewer := turnsLeft_consumerTurn (Config.freeLevel s.fresh) (Config.freeLevel (s.fresh + 1))
      (s := useFree 2 s) hlife hrun hc
    simp only [joinRelease_of_not_stopped hnot]
    exact ⟨by simpa using hfewer, by simpa using hrun⟩

/-- Until the consumer exits, each silent step leaves one fewer. -/
theorem State.Stopping.after_step {s t : State} (h : s.Stopping) (hstep : step s = .next t) :
    t.Exited ∨ (t.Stopping ∧ t.quietTurnsLeft < s.quietTurnsLeft) := by
  have hinv := everyStepKeepsTheInvariant s t h.inv hstep
  obtain rfl : quietTurn (fetched [] s) = t := Host.Outcome.next.inj ((step_silent h.silent).symm.trans hstep)
  obtain ⟨hfewer, hrun⟩ := quietTurn_of_running (s := fetched [] s) h.life h.stopped h.consumer_ne_gone
  cases quietTurn_lifeMoves (fetched [] s) with
  | stays hlife => exact .inr ⟨⟨hinv, by simp, hlife.trans h.life, hrun⟩, hfewer⟩
  | exits _ hto => exact .inl (.inl hto)
  | releases _ hto => exact .inl (.inr hto)

/-- A silent run that is long enough ends after the exit. -/
theorem State.Stopping.exited_of_run {n : Nat} {s t : State} (h : s.Stopping) (hn : s.quietTurnsLeft ≤ n)
    (hrun : Host.Core.run Sys2Proof.core n s = .next t) : t.Exited := by
  induction n generalizing s with
  | zero =>
    have hpos := turnsLeft_pos h.consumer_ne_gone
    unfold State.quietTurnsLeft at hn
    omega
  | succ n ih =>
    obtain ⟨u, hstep, hrest⟩ := exists_step_of_run_succ hrun
    obtain hexited | ⟨hstopping, hfewer⟩ := h.after_step hstep
    · exact run_keeps step_keeps_exited n hexited hrest
    · exact ih hstopping (by omega) hrest

/-- Settles O14: three resets in flight at most and five turns of the consumer are eight silent turns. -/
theorem stoppedConsumerExits : Obligations.StoppedConsumerExits := by
  intro s hinv hin hlife hstopped
  obtain ⟨t, hrun⟩ := run_silent 8 hin
  have hresets := resetsInFlight_le s.hosts
  have hturns := turnsLeft_le hinv.wake
  have hleft : s.quietTurnsLeft ≤ 8 := Nat.add_le_add hresets hturns
  exact ⟨t, hrun, State.Stopping.exited_of_run ⟨hinv, hin, hlife, hstopped⟩ hleft hrun⟩

end Sys2Proof.Machine
end

section
/-! PROOFS. The family 70_reset_and_hazards.md: construction out of `UNBUILT`, by its cause of success or failure (R190 to
R194). -/

namespace Sys2Proof.Machine

/-! ### The operation, by its cause -/

theorem exec_bconstruct_of_notAcquired {s : State} (hlife : s.b.life = .unbuilt) (lvA lvB : Level) :
    exec (.bconstruct true lvA lvB) s = .next (constructFailed s.b.source s) := if_pos hlife

theorem exec_bconstruct_of_readFail {s : State} {lvA lvB : Level} (hlife : s.b.life = .unbuilt)
    (hp : phaseOf lvA lvB = none) : exec (.bconstruct false lvA lvB) s = .next (constructFailed .released s) := by
  rw [exec, execBconstruct, bconstructOver, if_pos hlife, hp]
  rfl

theorem exec_bconstruct_of_levels {s : State} {lvA lvB : Level} {phase : BitVec 2} (hlife : s.b.life = .unbuilt)
    (hp : phaseOf lvA lvB = some phase) :
    exec (.bconstruct false lvA lvB) s = .next (constructed (numSys s.fresh) phase s) := by
  rw [exec, execBconstruct, bconstructOver, if_pos hlife, hp]
  rfl

/-- Settles O54: the acquisition is tested first, then the levels. -/
theorem constructionFailure : Obligations.ConstructionFailure := by
  intro s f lvA lvB hlife hcause
  cases f with
  | true => exact exec_bconstruct_of_notAcquired hlife lvA lvB
  | false =>
    have hlevels : lvA = .fail ∨ lvB = .fail := by simpa using hcause
    exact exec_bconstruct_of_readFail hlife (phaseOf_of_fail hlevels)

/-! ### The elements after a success -/

/-- The clamp of a produced zero looks at the bounds' signs alone (41_pid.md R124). -/
theorem sat_zero (k n : Nat) (lo hi : Num64) :
    sat (numSys k) ((numSys k).zero n) lo hi =
      if 0 < Num64.toInt lo then lo else if Num64.toInt hi < 0 then hi else (numSys k).zero n := by
  rw [sat_numSys, numSys_zero_toInt]

/-- Unit P after a construction: both pairs in order, the integrator a clamped zero (70_reset_and_hazards.md R193). No
earlier value of the unit is left. -/
theorem constructP_numSys (k : Nat) (c : PidInit Num64) (p : UnitP Num64) :
    constructP (numSys k) c p =
      (let lo := if Num64.toInt c.intB < Num64.toInt c.intA then c.intB else c.intA
       let hi := if Num64.toInt c.intB < Num64.toInt c.intA then c.intA else c.intB
       { kp := c.kp, ki := c.ki, kd := c.kd,
         outMin := if Num64.toInt c.outB < Num64.toInt c.outA then c.outB else c.outA,
         outMax := if Num64.toInt c.outB < Num64.toInt c.outA then c.outA else c.outB,
         intMin := lo, intMax := hi, kaw := c.kaw,
         integ := if 0 < Num64.toInt lo then lo else if Num64.toInt hi < 0 then hi else (numSys k).zero 2,
         prevErr := (numSys k).zero 3, lastU := (numSys k).zero 0, lastY := (numSys k).zero 1 }) := by
  rw [constructP, setOutLimits_numSys, setIntLimits_numSys, pidPreset, sat_zero]

/-- Settles O53: the success path's state, unit P by `constructP_numSys`. -/
theorem constructionInitialises : Obligations.ConstructionInitialises := by
  intro s a b hlife
  exact ⟨freeTime s.params s.fresh, freeTime s.params (s.fresh + 1), Config.freeZeroSign (s.fresh + 3),
    Config.freeZeroSign (s.fresh + 2), Config.freeZeroSign (s.fresh + 0), Config.freeZeroSign (s.fresh + 1), _,
    exec_bconstruct_of_levels hlife (phaseOf_of_bits a b), rfl, constructP_numSys s.fresh s.params.pidInit s.p,
    rfl, rfl, rfl, rfl, rfl, rfl⟩

end Sys2Proof.Machine
end
